-- ==== Sys2Proof/Word.lean ====
section
/-! DEFINITION. The word and byte types of the engine (00_scope.md R7, 10_state.md R21). -/

namespace Sys2Proof

/-- One register, one buffer word, one host-port datum: 32 bits (10_state.md R21). A pixel is a whole word. -/
abbrev Word := BitVec 32

/-- One 8-bit value: a byte, a channel, a grey value (00_scope.md R7). -/
abbrev Byte := BitVec 8

end Sys2Proof
end

