-- ==== Sys2Proof/Config.lean ====
section
/-! DEFINITION. What an engine instance fixes (00_scope.md R8), and the free value of the model. -/

namespace Sys2Proof

/-- The four buffers (10_state.md R30): carrier, payload, key, output. -/
inductive Buffer where
  | cbuf | pbuf | kbuf | obuf
  deriving DecidableEq, Repr

/-- The open parameters of 00_scope.md R8. They stay fixed for the life of an engine instance (10_state.md R36). -/
structure Config where
  /-- `BUFW`: the depth in words of each of the four buffers. -/
  bufw : Nat
  /-- `HAS_CIPHER`: whether unit U_CIPH is present. -/
  hasCipher : Bool
  deriving DecidableEq, Repr

/-- The constraint R8 puts on the parameters: `8 <= BUFW <= 2^20`. -/
abbrev Config.Valid (c : Config) : Prop := 8 ≤ c.bufw ∧ c.bufw ≤ 2 ^ 20

/-- DESIGN CHOICE (log 3): the instance that `State.reset` is about; the spec leaves both parameters open, and its
test vectors assume these two values (95_test_vectors.md). -/
def Config.default : Config := { bufw := 64, hasCipher := true }

/-- `ID_VALUE` of R8: what register `ID` reads. -/
def Config.idValue : Word := 0x4C534501#32

/-- The text encodings the named constant `TEXT_ENCODING` of R8 may have: one. -/
inductive TextEncoding where
  | utf8
  deriving DecidableEq, Repr

/-- `TEXT_ENCODING` of R8. -/
def Config.textEncoding : TextEncoding := .utf8

/-- FREE VALUE (log 4): what a buffer word holds that nothing has written since reset (20_memory.md R85,
70_reset_and_hazards.md R292): one value for each count of resets, buffer and index, and nothing says which. -/
opaque Config.unwritten : Nat → Buffer → Nat → Word

end Sys2Proof
end

