-- ==== Sys2Proof/Syntax.lean ====
section
/-! DEFINITION. The 31 commands (30_encoding.md R96), one constructor each, with their immediates (R94). -/

namespace Sys2Proof

/-- The channel selector `ch` of EXTRACT (30_encoding.md R94): 0 alpha, 1 red, 2 green, 3 blue. -/
inductive Channel where
  | alpha | red | green | blue
  deriving DecidableEq, Repr

/-- The destination `dst` of MOVE (30_encoding.md R94): 0 CBUF, 1 PBUF, 2 KBUF. The value 3 is illegal. -/
inductive Dest where
  | c | p | k
  deriving DecidableEq, Repr

/-- The commands, in the order of 30_encoding.md R96. `pos` keeps its 8 bits: 32 to 255 are legal to issue and raise
E_POS (R99). -/
inductive Instr where
  | setbit (pos : BitVec 8) (bit : Bool)
  | getbit (pos : BitVec 8)
  | b2bits
  | bits2b
  | unpack
  | pack
  | compose
  | extract (ch : Channel)
  | gray
  | binz (thr : BitVec 16)
  | img2gray
  | img2bin (thr : BitVec 16)
  | gray2img
  | bin2img
  | embedBits
  | revealBits
  | embedBin
  | revealBin
  | embedGray (thr : BitVec 16)
  | embedColor (thr : BitVec 16)
  | embedText
  | revealText
  | caesarEnc (key : BitVec 8)
  | caesarDec (key : BitVec 8)
  | vigEnc
  | vigDec
  | xork (key : BitVec 8)
  | otp
  | cbcEnc
  | cbcDec
  | move (dst : Dest)
  deriving DecidableEq, Repr

/-- The functional units of 00_scope.md R2. -/
inductive FunctionalUnit where
  | bit | pack | img | steg | ciph | move
  deriving DecidableEq, Repr

/-- Which unit executes a command (00_scope.md R2, 30_encoding.md R96). -/
def Instr.unit : Instr → FunctionalUnit
  | .setbit _ _ | .getbit _ | .b2bits | .bits2b => .bit
  | .unpack | .pack => .pack
  | .compose | .extract _ | .gray | .binz _ | .img2gray | .img2bin _ | .gray2img | .bin2img => .img
  | .embedBits | .revealBits | .embedBin | .revealBin | .embedGray _ | .embedColor _ | .embedText | .revealText => .steg
  | .caesarEnc _ | .caesarDec _ | .vigEnc | .vigDec | .xork _ | .otp | .cbcEnc | .cbcDec => .ciph
  | .move _ => .move

/-- Alias `SETLSB bit` (30_encoding.md R103, 40_bitops.md R128). -/
def Instr.setlsb (bit : Bool) : Instr := .setbit 0 bit

/-- Alias `GETLSB` (30_encoding.md R103, 40_bitops.md R128). -/
def Instr.getlsb : Instr := .getbit 0

/-- Alias `XORK_DEC key` (30_encoding.md R103). -/
def Instr.xorkDec (key : BitVec 8) : Instr := .xork key

/-- Alias `OTP_DEC` (30_encoding.md R103). -/
def Instr.otpDec : Instr := .otp

end Sys2Proof
end

