-- ==== Sys2Proof/WellFormed.lean ====
section
/-! DEFINITION. Which commands an engine instance has: U_CIPH is optional (30_encoding.md R98). Every other limit of an
immediate is in its type. -/

namespace Sys2Proof

/-- A command the instance can be given: a command of U_CIPH only where `HAS_CIPHER` = 1 (30_encoding.md R95, R98). -/
def Instr.wf (hasCipher : Bool) (i : Instr) : Bool :=
  match i.unit with
  | .ciph => hasCipher
  | .bit | .pack | .img | .steg | .move => true

end Sys2Proof
end

