-- ==== Sys2Proof/Decode.lean ====
section
/-! DEFINITION. The decoder and the encoder of command words (30_encoding.md R91 to R99). A command arrives whole as the
datum of the CMD write: there is no byte order and no fetch (20_memory.md R67, R83). -/

namespace Sys2Proof

/-- Why a word is no command: the four cases (a) to (d) of 30_encoding.md R99. All raise E_ILLEGAL. -/
inductive Illegal where
  /-- (a): the opcode is not in the table of R96. -/
  | unassignedOpcode
  /-- (b): an opcode of U_CIPH where `HAS_CIPHER` = 0. -/
  | unitAbsent
  /-- (c): a bit the format marks zero is 1. -/
  | reservedBits
  /-- (d): MOVE with `dst` = 3. -/
  | reservedDest
  deriving DecidableEq, Repr

/-- `op = w[7:0]` (R91). -/
def opcodeOf (w : Word) : BitVec 8 := w.extractLsb' 0 8

/-- Field `pos` or `key`: `w[15:8]` (R93). -/
def byteField (w : Word) : BitVec 8 := w.extractLsb' 8 8

/-- Field `thr`: `w[23:8]` (R93). -/
def thrField (w : Word) : BitVec 16 := w.extractLsb' 8 16

/-- Fields `ch` and `dst`: `w[9:8]` (R93). -/
def selField (w : Word) : BitVec 2 := w.extractLsb' 8 2

/-- Bits 31 down to `n` are all zero: in each format of R93 the bits marked zero are such a slice. -/
def zeroFrom (n : Nat) (w : Word) : Bool := w >>> n == 0#32

/-- `ch` of R94. -/
def channelOf (sel : BitVec 2) : Channel :=
  match sel.toNat with
  | 0 => .alpha
  | 1 => .red
  | 2 => .green
  | _ => .blue

/-- `dst` of R94; 3 is none. -/
def destOf (sel : BitVec 2) : Option Dest :=
  match sel.toNat with
  | 0 => some .c
  | 1 => some .p
  | 2 => some .k
  | _ => none

/-- The check of case (c) of R99 for a format whose bits 31:`n` are marked zero. -/
def withZeros (n : Nat) (w : Word) (i : Instr) : Except Illegal Instr :=
  if zeroFrom n w then .ok i else .error .reservedBits

/-- Format N (R93). -/
def decodeN (w : Word) (i : Instr) : Except Illegal Instr := withZeros 8 w i

/-- Format PB (R93): `pos = w[15:8]`, `bit = w[16]`. -/
def decodePB (w : Word) (f : BitVec 8 → Bool → Instr) : Except Illegal Instr :=
  withZeros 17 w (f (byteField w) (w.getLsbD 16))

/-- Formats PS and KY (R93): one byte, `w[15:8]`. -/
def decodeByte (w : Word) (f : BitVec 8 → Instr) : Except Illegal Instr := withZeros 16 w (f (byteField w))

/-- Format CH (R93): `ch = w[9:8]`. -/
def decodeCH (w : Word) (f : Channel → Instr) : Except Illegal Instr := withZeros 10 w (f (channelOf (selField w)))

/-- Format TH (R93): `thr = w[23:8]`. -/
def decodeTH (w : Word) (f : BitVec 16 → Instr) : Except Illegal Instr := withZeros 24 w (f (thrField w))

/-- Format DS (R93, R95): the zero bits first, then `dst` = 3. -/
def decodeDS (w : Word) (f : Dest → Instr) : Except Illegal Instr :=
  if zeroFrom 10 w then
    match destOf (selField w) with
    | some d => .ok (f d)
    | none => .error .reservedDest
  else .error .reservedBits

/-- The U_CIPH gate of R95 and R98, which comes before the format. -/
def ifCipher (hasCipher : Bool) (r : Except Illegal Instr) : Except Illegal Instr :=
  if hasCipher then r else .error .unitAbsent

/-- `decode(w)` of 30_encoding.md R95 with the opcode map of R96: total, and dependent on `HAS_CIPHER` only. -/
def decode (hasCipher : Bool) (w : Word) : Except Illegal Instr :=
  match (opcodeOf w).toNat with
  | 0x10 => decodePB w .setbit
  | 0x11 => decodeByte w .getbit
  | 0x12 => decodeN w .b2bits
  | 0x13 => decodeN w .bits2b
  | 0x20 => decodeN w .unpack
  | 0x21 => decodeN w .pack
  | 0x30 => decodeN w .compose
  | 0x31 => decodeCH w .extract
  | 0x32 => decodeN w .gray
  | 0x33 => decodeTH w .binz
  | 0x34 => decodeN w .img2gray
  | 0x35 => decodeTH w .img2bin
  | 0x36 => decodeN w .gray2img
  | 0x37 => decodeN w .bin2img
  | 0x40 => decodeN w .embedBits
  | 0x41 => decodeN w .revealBits
  | 0x42 => decodeN w .embedBin
  | 0x43 => decodeN w .revealBin
  | 0x44 => decodeTH w .embedGray
  | 0x45 => decodeTH w .embedColor
  | 0x46 => decodeN w .embedText
  | 0x47 => decodeN w .revealText
  | 0x50 => ifCipher hasCipher (decodeByte w .caesarEnc)
  | 0x51 => ifCipher hasCipher (decodeByte w .caesarDec)
  | 0x52 => ifCipher hasCipher (decodeN w .vigEnc)
  | 0x53 => ifCipher hasCipher (decodeN w .vigDec)
  | 0x54 => ifCipher hasCipher (decodeByte w .xork)
  | 0x55 => ifCipher hasCipher (decodeN w .otp)
  | 0x56 => ifCipher hasCipher (decodeN w .cbcEnc)
  | 0x57 => ifCipher hasCipher (decodeN w .cbcDec)
  | 0x60 => decodeDS w .move
  | _ => .error .unassignedOpcode

/-- The number of a channel (R94). -/
def Channel.code : Channel → Nat
  | .alpha => 0
  | .red => 1
  | .green => 2
  | .blue => 3

/-- The number of a destination (R94). -/
def Dest.code : Dest → Nat
  | .c => 0
  | .p => 1
  | .k => 2

/-- The opcode of a command (R96). -/
def Instr.opcode : Instr → Nat
  | .setbit _ _ => 0x10
  | .getbit _ => 0x11
  | .b2bits => 0x12
  | .bits2b => 0x13
  | .unpack => 0x20
  | .pack => 0x21
  | .compose => 0x30
  | .extract _ => 0x31
  | .gray => 0x32
  | .binz _ => 0x33
  | .img2gray => 0x34
  | .img2bin _ => 0x35
  | .gray2img => 0x36
  | .bin2img => 0x37
  | .embedBits => 0x40
  | .revealBits => 0x41
  | .embedBin => 0x42
  | .revealBin => 0x43
  | .embedGray _ => 0x44
  | .embedColor _ => 0x45
  | .embedText => 0x46
  | .revealText => 0x47
  | .caesarEnc _ => 0x50
  | .caesarDec _ => 0x51
  | .vigEnc => 0x52
  | .vigDec => 0x53
  | .xork _ => 0x54
  | .otp => 0x55
  | .cbcEnc => 0x56
  | .cbcDec => 0x57
  | .move _ => 0x60

/-- The operand field, bits 31:8, of a command (R93): for PB it is `pos | (bit << 8)`. -/
def Instr.field : Instr → Nat
  | .setbit pos bit => pos.toNat + 256 * bit.toNat
  | .getbit pos => pos.toNat
  | .extract ch => ch.code
  | .binz thr | .img2bin thr | .embedGray thr | .embedColor thr => thr.toNat
  | .caesarEnc key | .caesarDec key | .xork key => key.toNat
  | .move dst => dst.code
  | .b2bits | .bits2b | .unpack | .pack | .compose | .gray | .img2gray | .gray2img | .bin2img
  | .embedBits | .revealBits | .embedBin | .revealBin | .embedText | .revealText
  | .vigEnc | .vigDec | .otp | .cbcEnc | .cbcDec => 0

/-- The command word `opcode | (field << 8)` (R93), the two parts on disjoint bits. -/
def encode (i : Instr) : Word := BitVec.ofNat 32 (i.opcode + 256 * i.field)

/-- The command word whose bits are the low `nbits` bits of `w`, the bits above them zero. -/
def tableWord (nbits w : Nat) : Word := BitVec.ofNat 32 (w % 2 ^ nbits)

/-- The host's question: which command the decoder of the instance `Config.default` reads from these bits. -/
def decodeTableWord (nbits w : Nat) : Option Instr :=
  match decode Config.default.hasCipher (tableWord nbits w) with
  | .ok i => some i
  | .error _ => none

end Sys2Proof
end

