-- ==== Sys2Proof/Machine/State.lean ====
section
/-! DEFINITION. The state of one engine and of its host port, as plain data (10_state.md R20 to R36), and its reset. -/

namespace Sys2Proof.Machine

/-- The contents of one buffer: (word index, word) cells for the words that have been written since reset, indices
strictly rising (`Memory.wf` in Ops.lean). The smallest unit is a whole word (20_memory.md R60; log 6). -/
abbrev Memory := List (Nat × Word)

/-- A host-port transaction (20_memory.md R72). -/
inductive Txn where
  | read (addr : Word)
  | write (addr data : Word)
  | reset
  deriving DecidableEq, Repr

/-- The response of a transaction (20_memory.md R72). -/
inductive Response where
  /-- The access was to a mapped address; a command completed. -/
  | okay
  /-- The address is unmapped. -/
  | decErr
  /-- A command faulted or was refused. -/
  | cmdErr
  deriving DecidableEq, Repr

/-- What a transaction returns: a read a response and a datum, a write a response (20_memory.md R72). -/
inductive Reply where
  | readDone (r : Response) (datum : Word)
  | writeDone (r : Response)
  deriving DecidableEq, Repr

/-- The engine's thirteen faults (60_exceptions.md R260). A fault of the engine is RECORDED and the machine goes on
(R266): a command that raises one answers a next state, so no step of this model ever ends in one of these. -/
inductive Fault where
  /-- 0x01: the command word is illegal. Raised by decode, and by a command of an absent U_CIPH. Exact (safe). -/
  | illegal
  /-- 0x02: bit position above 31. Raised by SETBIT, GETBIT. Exact (safe). -/
  | pos
  /-- 0x03: an operand or result needs more than BUFW words. Raised by every command that uses a buffer but MOVE,
  B2BITS, BITS2B. Exact (safe). -/
  | size
  /-- 0x04: the cover of a flat embedding is empty. Raised by EMBED_BITS, EMBED_TEXT. Exact (safe). -/
  | empty
  /-- 0x05: the cover is smaller than the payload. Raised by EMBED_BIN, EMBED_GRAY, EMBED_COLOR. Exact (safe). -/
  | dim
  /-- 0x06: the image is not square. Raised by REVEAL_BIN. Exact (safe). -/
  | square
  /-- 0x07: a bit count is not 8 (BITS2B) or not a multiple of 8 (PACK). Exact (safe). -/
  | len
  /-- 0x08: the keyword or the initial vector is empty. Raised by VIG_ENC, VIG_DEC, CBC_ENC, CBC_DEC. Exact (safe). -/
  | keyEmpty
  /-- 0x09: the pad's length differs from the data's. Raised by OTP. Exact (safe). -/
  | padLen
  /-- 0x0A: the ciphertext's length is no multiple of the block size. Raised by CBC_DEC. Exact (safe). -/
  | block
  /-- 0x0B: a grey or channel value above 255. Raised by BINZ, IMG2BIN, GRAY2IMG, EMBED_GRAY, COMPOSE. Exact (safe). -/
  | range
  /-- 0x0C: a bit or Boolean above 1, or a byte above 255. Raised by the commands that read them. Exact (safe). -/
  | elem
  /-- 0x0D: the message is not well-formed UTF-8. Raised by EMBED_TEXT. Exact (safe). -/
  | text
  deriving DecidableEq, Repr

/-- Reasons a step has no meaning. -/
inductive Refusal where
  /-- A command whose arm of `exec` has no meaning. No arm answers it: every command has one. Safe: a run would stop. -/
  | notModelled (mnemonic : String)
  deriving DecidableEq, Repr

/-- One engine, its parameters, and the host that drives it. Registers: 10_state.md R22 to R28, R32. Buffers: R30.
The fields `cfg`, `resets`, `host` and `reply` are the model's own (log 1 to 5). -/
structure State where
  /-- The instance's parameters; no step writes them (10_state.md R36). -/
  cfg : Config
  a0 : Word
  a1 : Word
  a2 : Word
  a3 : Word
  res : Word
  crows : Word
  ccols : Word
  prows : Word
  pcols : Word
  plen : Word
  klen : Word
  orows : Word
  ocols : Word
  olen : Word
  /-- `STATUS`: bit 0 `ERR`, bit 1 `TRUNC`, bit 2 `WF`, bits 31:3 reserved (R27). -/
  status : Word
  errcode : Word
  errcmd : Word
  errinfo : Word
  cbuf : Memory
  pbuf : Memory
  kbuf : Memory
  obuf : Memory
  /-- How many reset transactions have happened: picks the free values of unwritten words (log 5). -/
  resets : Nat
  /-- The transactions the host has still to perform, the next one first (log 1). -/
  host : List Txn
  /-- What the last transaction returned (log 2). -/
  reply : Option Reply
  deriving DecidableEq, Repr

/-- The state after a reset of the instance `cfg` (10_state.md R35, 70_reset_and_hazards.md R290): every register 0,
no buffer word written. -/
def State.resetWith (cfg : Config) (resets : Nat) (host : List Txn) : State where
  cfg := cfg
  a0 := 0
  a1 := 0
  a2 := 0
  a3 := 0
  res := 0
  crows := 0
  ccols := 0
  prows := 0
  pcols := 0
  plen := 0
  klen := 0
  orows := 0
  ocols := 0
  olen := 0
  status := 0
  errcode := 0
  errcmd := 0
  errinfo := 0
  cbuf := []
  pbuf := []
  kbuf := []
  obuf := []
  resets := resets
  host := host
  reply := none

/-- The machine right after reset. The instance, the count of resets, the empty list of host transactions and the
absent reply are DESIGN CHOICES of the model (log 1, 2, 3, 5). -/
def State.reset : State := State.resetWith Config.default 0 []

end Sys2Proof.Machine
end

