-- ==== Sys2Proof/Machine/Bits.lean ====
section
/-! DEFINITION. Functions on one word, one byte, one bit: 40_bitops.md R120, R121, R125. -/

namespace Sys2Proof.Machine

/-- A Boolean in a word: 1 for true, 0 for false, zero-extended (10_state.md R23, 20_memory.md R64). -/
def bitWord (b : Bool) : Word := if b then 1#32 else 0#32

/-- A byte zero-extended to a word (20_memory.md R64). -/
def byteWord (b : Byte) : Word := b.setWidth 32

/-- The byte a legal byte or grey word stands for (20_memory.md R64); on a legal word nothing is lost. -/
def wordByte (w : Word) : Byte := w.setWidth 8

/-- A natural number as a word, for the counts a command writes (log 17). -/
def natWord (n : Nat) : Word := BitVec.ofNat 32 n

/-- `setBit(v, b, p) = (v & ~(1 << p)) | (zext_32(b) << p)` (40_bitops.md R120). -/
def setBit (v : Word) (b : Bool) (p : Nat) : Word := (v &&& ~~~(1#32 <<< p)) ||| (bitWord b <<< p)

/-- `getBit(v, p) = v[p]` (40_bitops.md R121). -/
def getBit (v : Word) (p : Nat) : Bool := v.getLsbD p

/-- `setLSB`, the cell step of embedding (40_bitops.md R121, 43_steganography.md R190). -/
def setLsb (v : Word) (b : Bool) : Word := setBit v b 0

/-- `getLSB`, the cell step of revealing (40_bitops.md R121, 43_steganography.md R191). -/
def getLsb (v : Word) : Bool := getBit v 0

/-- `byteToBits(b)[i] = b[7 - i]`: the most significant bit first (40_bitops.md R125, 20_memory.md R66). -/
def byteToBits (b : Byte) : List Bool := (List.range 8).map fun i => b.getLsbD (7 - i)

/-- The value of a bit sequence, first bit most significant. -/
def bitsValue (s : List Bool) : Nat := s.foldl (fun n b => 2 * n + b.toNat) 0

/-- `bitsToByte(s)`: the byte with `s[i]` at bit `7 - i`; `none` where the length is not 8 (40_bitops.md R125). -/
def bitsToByte (s : List Bool) : Option Byte :=
  if s.length = 8 then some (BitVec.ofNat 8 (bitsValue s)) else none

end Sys2Proof.Machine
end

