-- ==== Sys2Proof/Machine/Flags.lean ====
section
/-! DEFINITION. The three flags of STATUS (10_state.md R27, R33). Reserved bits 31:3 are never written. -/

namespace Sys2Proof.Machine

/-- `STATUS.ERR`, bit 0 (10_state.md R27). -/
def State.err (s : State) : Bool := s.status.getLsbD 0

/-- `STATUS.TRUNC`, bit 1 (10_state.md R27). -/
def State.trunc (s : State) : Bool := s.status.getLsbD 1

/-- `STATUS.WF`, bit 2 (10_state.md R27). -/
def State.wellFormedFlag (s : State) : Bool := s.status.getLsbD 2

/-- `STATUS.ERR <- b`; the other bits of STATUS stay. -/
def State.setErr (s : State) (b : Bool) : State := { s with status := setBit s.status b 0 }

/-- The values a completed command writes to `TRUNC` and `WF`: 0 where its rule names none (10_state.md R27, R33). -/
structure FlagValues where
  trunc : Bool := false
  wf : Bool := false
  deriving DecidableEq, Repr

/-- Step 5 of the execution template (30_encoding.md R90): both flags are written; the other bits of STATUS stay. -/
def State.setFlags (s : State) (f : FlagValues) : State :=
  { s with status := setBit (setBit s.status f.trunc 1) f.wf 2 }

end Sys2Proof.Machine
end

