-- ==== Sys2Proof/Machine/Ops.lean ====
section
/-! DEFINITION. The named operations over buffers and registers, raising a fault and leaving the fault condition, and
the execution template of a command. -/

namespace Sys2Proof.Machine

/-! ### One buffer -/

/-- The written word at an index, `none` where nothing has been written since reset (20_memory.md R85). -/
def Memory.get? : Memory → Nat → Option Word
  | [], _ => none
  | (a, v) :: m, i => if a = i then some v else Memory.get? m i

/-- The buffer with one word written; every other word stays (20_memory.md R74). -/
def Memory.set : Memory → Nat → Word → Memory
  | [], i, v => [(i, v)]
  | (a, x) :: m, i, v =>
    if i < a then (i, v) :: (a, x) :: m
    else if i = a then (i, v) :: m
    else (a, x) :: Memory.set m i v

/-- Cells for a list of words, from index `k` up. -/
def cellsFrom : Nat → List Word → Memory
  | _, [] => []
  | k, w :: ws => (k, w) :: cellsFrom (k + 1) ws

/-- The buffer with words 0 to `ws.length - 1` written; words from `ws.length` on keep their content (20_memory.md R63). -/
def Memory.setPrefix (m : Memory) (ws : List Word) : Memory :=
  cellsFrom 0 ws ++ m.filter fun c => decide (ws.length ≤ c.1)

/-- The canonical form: indices strictly rising, all below the depth. An unlisted word has no value of its own, so no
entry can equal it. -/
abbrev Memory.wf (bufw : Nat) (m : Memory) : Prop :=
  (m.map Prod.fst).Pairwise (· < ·) ∧ ∀ c ∈ m, c.1 < bufw

/-! ### The buffers of a state -/

/-- The contents of a buffer (10_state.md R30). -/
def State.mem (s : State) : Buffer → Memory
  | .cbuf => s.cbuf
  | .pbuf => s.pbuf
  | .kbuf => s.kbuf
  | .obuf => s.obuf

/-- The state with the contents of one buffer replaced. -/
def State.setMem (s : State) (b : Buffer) (m : Memory) : State :=
  match b with
  | .cbuf => { s with cbuf := m }
  | .pbuf => { s with pbuf := m }
  | .kbuf => { s with kbuf := m }
  | .obuf => { s with obuf := m }

/-- `B[i]`: the word at index `i`. A word nothing has written holds a free value, the same at every read until the next
reset (20_memory.md R85, 93_implementation_defined.md U1; log 4). -/
def State.word (s : State) (b : Buffer) (i : Nat) : Word :=
  (Memory.get? (s.mem b) i).getD (Config.unwritten s.resets b i)

/-- `B[i] <- v` (00_scope.md R11). -/
def State.setWord (s : State) (b : Buffer) (i : Nat) (v : Word) : State := s.setMem b (Memory.set (s.mem b) i v)

/-- `B[0:n]`: the first `n` words of a buffer (00_scope.md R10, 20_memory.md R62). -/
def State.words (s : State) (b : Buffer) (n : Nat) : List Word := (List.range n).map (s.word b)

/-- The buffer's words 0 to `n - 1` become `f 0` to `f (n - 1)`; the others stay (20_memory.md R63). -/
def State.fill (s : State) (b : Buffer) (n : Nat) (f : Nat → Word) : State :=
  s.setMem b (Memory.setPrefix (s.mem b) ((List.range n).map f))

/-! ### Results of commands -/

/-- A sequence result of `n` elements: `OBUF[0:n]`, `OLEN <- n`, `OROWS <- 0`, `OCOLS <- 0` (10_state.md R26). -/
def State.outSequence (s : State) (n : Nat) (f : Nat → Word) : State :=
  { s.fill .obuf n f with orows := 0, ocols := 0, olen := natWord n }

/-- An image result with row-major cells `f`: `OBUF`, and its shape in `OROWS`, `OCOLS`, `OLEN` (10_state.md R26). -/
def State.outImage (s : State) (rows cols : Word) (f : Nat → Word) : State :=
  let n := rows.toNat * cols.toNat
  { s.fill .obuf n f with orows := rows, ocols := cols, olen := natWord n }

/-- A scalar result: `RES <- v` (10_state.md R23). -/
def State.setRes (s : State) (v : Word) : State := { s with res := v }

/-! ### Responses -/

/-- The transaction returns `r` (20_memory.md R72). -/
def State.answer (s : State) (r : Reply) : State := { s with reply := some r }

/-! ### Taking a fault, being refused, leaving the fault condition -/

/-- The code of a fault (60_exceptions.md R260). -/
def Fault.code : Fault → BitVec 8
  | .illegal => 0x01
  | .pos => 0x02
  | .size => 0x03
  | .empty => 0x04
  | .dim => 0x05
  | .square => 0x06
  | .len => 0x07
  | .keyEmpty => 0x08
  | .padLen => 0x09
  | .block => 0x0A
  | .range => 0x0B
  | .elem => 0x0C
  | .text => 0x0D

/-- `raise <code>(info)` inside the command word `w` (60_exceptions.md R266): `STATUS.ERR <- 1`, `ERRCODE`, `ERRCMD` and
`ERRINFO` are written, the response is CMDERR, and nothing else changes. -/
def State.raise (s : State) (w : Word) (f : Fault) (info : Word) : State :=
  { s.setErr true with errcode := byteWord f.code, errcmd := w, errinfo := info }.answer (.writeDone .cmdErr)

/-- `CLRERR` (45_move_control.md R253), the engine's only return from a fault (60_exceptions.md R270): `STATUS.ERR`,
`ERRCODE`, `ERRCMD` and `ERRINFO` become 0. -/
def State.clrErr (s : State) : State := { s.setErr false with errcode := 0, errcmd := 0, errinfo := 0 }

/-- Refusal (30_encoding.md R92): no state of the engine changes, the response is CMDERR. -/
def State.refuse (s : State) : State := s.answer (.writeDone .cmdErr)

/-! ### The execution template -/

/-- A check that failed: the fault to raise and its `info` (30_encoding.md R90, step 3). -/
structure Violation where
  fault : Fault
  info : Word
  deriving DecidableEq, Repr

/-- One check of a command's rule: `p`, else `raise f(info)`. -/
def require (p : Prop) [Decidable p] (f : Fault) (info : Word) : Option Violation :=
  if p then none else some ⟨f, info⟩

/-- Steps 3 to 6 of the execution template (30_encoding.md R90) for the command `i`: the first failing check is raised;
else the commit phase writes the outputs, the flags are written, and the response is OKAY. The recorded command word
is `encode i`, which is the word that was written (log 8). -/
def State.command (s : State) (i : Instr) (check : Option Violation) (commit : State → State)
    (flags : State → FlagValues := fun _ => {}) : Host.Outcome State Fault Refusal :=
  match check with
  | some v => .next (s.raise (encode i) v.fault v.info)
  | none => .next (((commit s).setFlags (flags s)).answer (.writeDone .okay))

end Sys2Proof.Machine
end

