-- ==== Sys2Proof/Machine/Operands.lean ====
section
/-! DEFINITION. The operand forms of the commands: element words and their checks (20_memory.md R64), descriptors and
sizes (10_state.md R25, 60_exceptions.md R262), images in row-major order (20_memory.md R61). -/

namespace Sys2Proof.Machine

/-- The element types of 20_memory.md R64 that have illegal words. A pixel is never illegal, so nothing checks one. -/
inductive ElementType where
  | grey | boolean | bit | byte
  deriving DecidableEq, Repr

/-- The greatest legal word of an element type (20_memory.md R64). -/
def ElementType.maxWord : ElementType → Nat
  | .grey => 255
  | .boolean => 1
  | .bit => 1
  | .byte => 255

/-- The fault an illegal word raises (20_memory.md R64). -/
def ElementType.fault : ElementType → Fault
  | .grey => .range
  | .boolean => .elem
  | .bit => .elem
  | .byte => .elem

/-- Whether a word is a legal element (20_memory.md R64). -/
def ElementType.legal (e : ElementType) (w : Word) : Bool := decide (w.toNat ≤ e.maxWord)

/-- `info` of an element fault: the index; bit 31 set if the word is in KBUF (60_exceptions.md R260). -/
def elementInfo (b : Buffer) (k : Nat) : Word :=
  match b with
  | .kbuf => 0x80000000#32 ||| natWord k
  | .cbuf | .pbuf | .obuf => natWord k

/-- The check "for k = 0 to n - 1 ascending, `B[k]` is a legal element, else raise its fault for the first such k"
(20_memory.md R64). -/
def State.checkElements (s : State) (e : ElementType) (b : Buffer) (n : Nat) : Option Violation :=
  match (s.words b n).findIdx? fun w => !e.legal w with
  | none => none
  | some k => some ⟨e.fault, elementInfo b k⟩

/-- The check `count <= BUFW`, else `raise E_SIZE(0)` (60_exceptions.md R262); `count` is exact. -/
def State.checkSize (s : State) (count : Nat) : Option Violation := require (count ≤ s.cfg.bufw) .size 0

/-- `cap = CROWS * CCOLS`, exact (10_state.md R25, 00_scope.md R9). -/
def State.cap (s : State) : Nat := s.crows.toNat * s.ccols.toNat

/-- `pn = PROWS * PCOLS`, exact (10_state.md R25, 00_scope.md R9). -/
def State.pn (s : State) : Nat := s.prows.toNat * s.pcols.toNat

/-- `empty(PROWS, PCOLS)` (00_scope.md R10, 42_imageops.md R168). -/
abbrev State.payloadEmpty (s : State) : Prop := s.prows = 0 ∨ s.pcols = 0

/-- Row-major cells from a function of row and column: cell (r, c) is element `r * cols + c` (00_scope.md R10,
20_memory.md R61), so element k is cell (k div cols, k mod cols). -/
def rowMajor (cols : Nat) (cell : Nat → Nat → Word) (k : Nat) : Word := cell (k / cols) (k % cols)

end Sys2Proof.Machine
end

