-- ==== Sys2Proof/Machine/BitOps.lean ====
section
/-! DEFINITION. Unit U_BIT (40_bitops.md). -/

namespace Sys2Proof.Machine

/-- The range check of a bit position: `pos <= 31`, else `raise E_POS(pos)` (40_bitops.md R122, R123). -/
def checkPos (pos : BitVec 8) : Option Violation := require (pos.toNat ≤ 31) .pos (byteWord pos)

/-- `SETBIT pos, bit` (40_bitops.md R122). -/
def execSetbit (pos : BitVec 8) (bit : Bool) (s : State) : Host.Outcome State Fault Refusal :=
  s.command (.setbit pos bit) (checkPos pos) fun s => s.setRes (setBit s.a0 bit pos.toNat)

/-- `GETBIT pos` (40_bitops.md R123). -/
def execGetbit (pos : BitVec 8) (s : State) : Host.Outcome State Fault Refusal :=
  s.command (.getbit pos) (checkPos pos) fun s => s.setRes (bitWord (getBit s.a0 pos.toNat))

/-- `B2BITS` (40_bitops.md R126). -/
def execB2bits (s : State) : Host.Outcome State Fault Refusal :=
  s.command .b2bits (require (s.a0.toNat ≤ 255) .elem 0) fun s =>
    s.outSequence 8 fun i => bitWord ((byteToBits (wordByte s.a0)).getD i false)

/-- `BITS2B` (40_bitops.md R127). -/
def execBits2b (s : State) : Host.Outcome State Fault Refusal :=
  s.command .bits2b (require (s.plen.toNat = 8) .len s.plen <|> s.checkElements .bit .pbuf 8) fun s =>
    s.setRes (natWord (bitsValue ((s.words .pbuf 8).map getLsb)))

end Sys2Proof.Machine
end

