-- ==== Sys2Proof/Machine/CipherSuite.lean ====
section
/-! DEFINITION. Unit U_CIPH (44_cipher.md), present when `HAS_CIPHER` = 1. Bytes add, subtract and XOR as 8-bit values,
which is the arithmetic modulo 256 of R220. -/

namespace Sys2Proof.Machine

/-- The template of a command of U_CIPH: with the unit absent its word is illegal (30_encoding.md R95, R98; log 9); else
the command's checks, and the byte sequence `f` of length `PLEN` as the result (44_cipher.md R221). -/
def State.cipher (s : State) (i : Instr) (check : Option Violation) (f : State → Nat → Byte) :
    Host.Outcome State Fault Refusal :=
  s.command i (require (s.cfg.hasCipher = true) .illegal 0 <|> check) fun s =>
    s.outSequence s.plen.toNat fun k => byteWord (f s k)

/-- Byte `k` of the data, `PBUF[k]`. -/
def State.dataByte (s : State) (k : Nat) : Byte := wordByte (s.word .pbuf k)

/-- Byte `k` of the key material, `KBUF[k]`. -/
def State.keyByte (s : State) (k : Nat) : Byte := wordByte (s.word .kbuf k)

/-- The checks of a command without key buffer: 44_cipher.md R221 (a), (c). -/
def State.checkData (s : State) : Option Violation :=
  s.checkSize s.plen.toNat <|> s.checkElements .byte .pbuf s.plen.toNat

/-- The checks of a command with a key buffer: 44_cipher.md R221 (a), (b), the command's own, (c), (d). -/
def State.checkKeyed (s : State) (own : Option Violation) : Option Violation :=
  s.checkSize s.plen.toNat
    <|> s.checkSize s.klen.toNat
    <|> own
    <|> s.checkElements .byte .pbuf s.plen.toNat
    <|> s.checkElements .byte .kbuf s.klen.toNat

/-- `KLEN != 0`, else `raise E_KEYEMPTY(0)` (44_cipher.md R224, R228). -/
def State.checkKeyNonempty (s : State) : Option Violation := require (s.klen.toNat ≠ 0) .keyEmpty 0

/-- `CAESAR_ENC key` (44_cipher.md R222). -/
def execCaesarEnc (key : BitVec 8) (s : State) : Host.Outcome State Fault Refusal :=
  s.cipher (.caesarEnc key) s.checkData fun s k => s.dataByte k + key

/-- `CAESAR_DEC key` (44_cipher.md R223). -/
def execCaesarDec (key : BitVec 8) (s : State) : Host.Outcome State Fault Refusal :=
  s.cipher (.caesarDec key) s.checkData fun s k => s.dataByte k - key

/-- `VIG_ENC` (44_cipher.md R224): the key byte cycles through the keyword. -/
def execVigEnc (s : State) : Host.Outcome State Fault Refusal :=
  s.cipher .vigEnc (s.checkKeyed s.checkKeyNonempty) fun s k => s.dataByte k + s.keyByte (k % s.klen.toNat)

/-- `VIG_DEC` (44_cipher.md R225). -/
def execVigDec (s : State) : Host.Outcome State Fault Refusal :=
  s.cipher .vigDec (s.checkKeyed s.checkKeyNonempty) fun s k => s.dataByte k - s.keyByte (k % s.klen.toNat)

/-- `XORK key` (44_cipher.md R226). -/
def execXork (key : BitVec 8) (s : State) : Host.Outcome State Fault Refusal :=
  s.cipher (.xork key) s.checkData fun s k => s.dataByte k ^^^ key

/-- The checks of OTP (44_cipher.md R227): with empty data nothing after the size of the data is checked. -/
def State.checkPad (s : State) : Option Violation :=
  s.checkSize s.plen.toNat
    <|> (if s.plen.toNat = 0 then none
      else require (s.klen.toNat = s.plen.toNat) .padLen s.klen
        <|> s.checkElements .byte .pbuf s.plen.toNat
        <|> s.checkElements .byte .kbuf s.klen.toNat)

/-- `OTP` (44_cipher.md R227). -/
def execOtp (s : State) : Host.Outcome State Fault Refusal :=
  s.cipher .otp s.checkPad fun s k => s.dataByte k ^^^ s.keyByte k

/-- The first `n` bytes of XOR-chaining encryption with block size `b` (44_cipher.md R228): byte i is masked by byte i of
the initial vector, or by the ciphertext byte one block before. -/
def chainEncrypt (b : Nat) (plain iv : Nat → Byte) : Nat → List Byte
  | 0 => []
  | n + 1 =>
    let out := chainEncrypt b plain iv n
    out ++ [plain n ^^^ (if n < b then iv n else out.getD (n - b) 0)]

/-- Byte `i` of XOR-chaining decryption with block size `b` (44_cipher.md R229). -/
def chainDecrypt (b : Nat) (cipher iv : Nat → Byte) (i : Nat) : Byte :=
  cipher i ^^^ (if i < b then iv i else cipher (i - b))

/-- `CBC_ENC` (44_cipher.md R228). -/
def execCbcEnc (s : State) : Host.Outcome State Fault Refusal :=
  s.cipher .cbcEnc (s.checkKeyed s.checkKeyNonempty) fun s k =>
    (chainEncrypt s.klen.toNat s.dataByte s.keyByte s.plen.toNat).getD k 0

/-- `CBC_DEC` (44_cipher.md R229). -/
def execCbcDec (s : State) : Host.Outcome State Fault Refusal :=
  s.cipher .cbcDec
    (s.checkKeyed (s.checkKeyNonempty <|> require (s.plen.toNat % s.klen.toNat = 0) .block s.plen)) fun s k =>
    chainDecrypt s.klen.toNat s.dataByte s.keyByte k

end Sys2Proof.Machine
end

