-- ==== Sys2Proof/Machine/ImageOps.lean ====
section
/-! DEFINITION. Unit U_IMG (42_imageops.md). -/

namespace Sys2Proof.Machine

/-- `composePixel` (42_imageops.md R160; layout 20_memory.md R65): alpha the most significant byte, blue the least. -/
def composePixel (alpha red green blue : Byte) : Word :=
  (byteWord alpha <<< 24) ||| (byteWord red <<< 16) ||| (byteWord green <<< 8) ||| byteWord blue

/-- `extractChannel` (42_imageops.md R160). -/
def extractChannel (p : Word) : Channel → Byte
  | .alpha => p.extractLsb' 24 8
  | .red => p.extractLsb' 16 8
  | .green => p.extractLsb' 8 8
  | .blue => p.extractLsb' 0 8

/-- `grayscale(p) = (red + green + blue) div 3`, the sum exact (42_imageops.md R161). -/
def grayscale (p : Word) : Byte :=
  BitVec.ofNat 8
    (((extractChannel p .red).toNat + (extractChannel p .green).toNat + (extractChannel p .blue).toNat) / 3)

/-- `binarize(gray, thr)`: unsigned `gray >= thr` (42_imageops.md R162). -/
def binarize (gray : Byte) (thr : BitVec 16) : Bool := decide (thr.toNat ≤ gray.toNat)

/-- `grayToImage` on one element (42_imageops.md R169). -/
def grayPixel (g : Byte) : Word := composePixel 255 g g g

/-- `binaryToImage` on one element: white or opaque black (42_imageops.md R169; log 11). -/
def binaryPixel (b : Bool) : Word := if b then composePixel 255 255 255 255 else composePixel 255 0 0 0

/-- `COMPOSE` (42_imageops.md R164). -/
def execCompose (s : State) : Host.Outcome State Fault Refusal :=
  s.command .compose
    (require (s.a0.toNat ≤ 255) .range 0
      <|> require (s.a1.toNat ≤ 255) .range 1
      <|> require (s.a2.toNat ≤ 255) .range 2
      <|> require (s.a3.toNat ≤ 255) .range 3) fun s =>
    s.setRes (composePixel (wordByte s.a0) (wordByte s.a1) (wordByte s.a2) (wordByte s.a3))

/-- `EXTRACT ch` (42_imageops.md R165). -/
def execExtract (ch : Channel) (s : State) : Host.Outcome State Fault Refusal :=
  s.command (.extract ch) none fun s => s.setRes (byteWord (extractChannel s.a0 ch))

/-- `GRAY` (42_imageops.md R166). -/
def execGray (s : State) : Host.Outcome State Fault Refusal :=
  s.command .gray none fun s => s.setRes (byteWord (grayscale s.a0))

/-- `BINZ thr` (42_imageops.md R167). -/
def execBinz (thr : BitVec 16) (s : State) : Host.Outcome State Fault Refusal :=
  s.command (.binz thr) (require (s.a0.toNat ≤ 255) .range 0) fun s =>
    s.setRes (bitWord (binarize (wordByte s.a0) thr))

/-- Commit of the four conversions: the canonical empty result (0, 0) for an empty operand, else the element-wise image
of the operand's shape (42_imageops.md R168, R169). -/
def State.convertImage (s : State) (f : Word → Word) : State :=
  if s.payloadEmpty then s.outImage 0 0 fun _ => 0
  else s.outImage s.prows s.pcols fun k => f (s.word .pbuf k)

/-- The element check of a conversion: skipped for an empty operand (42_imageops.md R168, R171 to R173). -/
def State.checkImage (s : State) (e : ElementType) : Option Violation :=
  if s.payloadEmpty then none else s.checkElements e .pbuf s.pn

/-- `IMG2GRAY` (42_imageops.md R170). -/
def execImg2gray (s : State) : Host.Outcome State Fault Refusal :=
  s.command .img2gray (s.checkSize s.pn) fun s => s.convertImage fun p => byteWord (grayscale p)

/-- `IMG2BIN thr` (42_imageops.md R171). -/
def execImg2bin (thr : BitVec 16) (s : State) : Host.Outcome State Fault Refusal :=
  s.command (.img2bin thr) (s.checkSize s.pn <|> s.checkImage .grey) fun s =>
    s.convertImage fun g => bitWord (binarize (wordByte g) thr)

/-- `GRAY2IMG` (42_imageops.md R172). -/
def execGray2img (s : State) : Host.Outcome State Fault Refusal :=
  s.command .gray2img (s.checkSize s.pn <|> s.checkImage .grey) fun s =>
    s.convertImage fun g => grayPixel (wordByte g)

/-- `BIN2IMG` (42_imageops.md R173). -/
def execBin2img (s : State) : Host.Outcome State Fault Refusal :=
  s.command .bin2img (s.checkSize s.pn <|> s.checkImage .boolean) fun s =>
    s.convertImage fun b => binaryPixel (getLsb b)

end Sys2Proof.Machine
end

