-- ==== Sys2Proof/Machine/MoveControl.lean ====
section
/-! DEFINITION. Unit U_MOVE (45_move_control.md R250). -/

namespace Sys2Proof.Machine

/-- Commit of MOVE (45_move_control.md R250): `OBUF[0:OLEN]` and its descriptor go to an input buffer. -/
def State.moveTo (s : State) (dst : Dest) : State :=
  match dst with
  | .c => { s.fill .cbuf s.olen.toNat (s.word .obuf) with crows := s.orows, ccols := s.ocols }
  | .p => { s.fill .pbuf s.olen.toNat (s.word .obuf) with prows := s.orows, pcols := s.ocols, plen := s.olen }
  | .k => { s.fill .kbuf s.olen.toNat (s.word .obuf) with klen := s.olen }

/-- `MOVE dst` (45_move_control.md R250). -/
def execMove (dst : Dest) (s : State) : Host.Outcome State Fault Refusal :=
  s.command (.move dst) none fun s => s.moveTo dst

end Sys2Proof.Machine
end

