-- ==== Sys2Proof/Machine/TextCodec.lean ====
section
/-! DEFINITION. Unit U_PACK and the text well-formedness predicate (41_textcodec.md). -/

namespace Sys2Proof.Machine

/-- `bytesToBits(bs)` (41_textcodec.md R140). -/
def bytesToBits (bs : List Byte) : List Bool := bs.flatMap byteToBits

/-- `bitsToBytes(s)`, for whole groups of eight: byte `j` is made of elements `8*j` to `8*j + 7`; a trailing partial
group makes no byte (41_textcodec.md R140; REVEAL_TEXT's truncation, 43_steganography.md R201). -/
def bitsToBytes (s : List Bool) : List Byte :=
  (List.range (s.length / 8)).map fun j => BitVec.ofNat 8 (bitsValue ((s.drop (8 * j)).take 8))

/-- The first `n` words of a buffer as bytes; each word is a legal byte when the command's checks have passed. -/
def State.bytes (s : State) (b : Buffer) (n : Nat) : List Byte := (s.words b n).map wordByte

/-- The first `n` words of a buffer as bits, by their least significant bit. -/
def State.bits (s : State) (b : Buffer) (n : Nat) : List Bool := (s.words b n).map getLsb

/-- The rows W1 to W9 of 41_textcodec.md R145, each a range for every byte of the row (log 10). -/
def utf8Rows : List (List (Nat × Nat)) :=
  [[(0x00, 0x7F)],
   [(0xC2, 0xDF), (0x80, 0xBF)],
   [(0xE0, 0xE0), (0xA0, 0xBF), (0x80, 0xBF)],
   [(0xE1, 0xEC), (0x80, 0xBF), (0x80, 0xBF)],
   [(0xED, 0xED), (0x80, 0x9F), (0x80, 0xBF)],
   [(0xEE, 0xEF), (0x80, 0xBF), (0x80, 0xBF)],
   [(0xF0, 0xF0), (0x90, 0xBF), (0x80, 0xBF), (0x80, 0xBF)],
   [(0xF1, 0xF3), (0x80, 0xBF), (0x80, 0xBF), (0x80, 0xBF)],
   [(0xF4, 0xF4), (0x80, 0x8F), (0x80, 0xBF), (0x80, 0xBF)]]

/-- The bytes begin with one byte inside each range of the row. -/
def matchesRow : List (Nat × Nat) → List Byte → Bool
  | [], _ => true
  | _ :: _, [] => false
  | (lo, hi) :: rs, b :: bs => decide (lo ≤ b.toNat) && decide (b.toNat ≤ hi) && matchesRow rs bs

/-- The length of the row the bytes begin with, if any (41_textcodec.md R146). -/
def rowLength (bs : List Byte) : Option Nat := (utf8Rows.find? fun row => matchesRow row bs).map List.length

/-- The scan of 41_textcodec.md R146 over the bytes from index `i` on, of which `skip` belong to a row already matched. -/
def firstBadFrom : Nat → Nat → List Byte → Option Nat
  | _, _, [] => none
  | skip + 1, i, _ :: bs => firstBadFrom skip (i + 1) bs
  | 0, i, b :: bs =>
    match rowLength (b :: bs) with
    | some len => firstBadFrom (len - 1) (i + 1) bs
    | none => some i

/-- `firstbad(bs)` for the encoding `enc` (41_textcodec.md R146). -/
def TextEncoding.firstBad (enc : TextEncoding) (bs : List Byte) : Option Nat :=
  match enc with
  | .utf8 => firstBadFrom 0 0 bs

/-- `wellformed(bs)` in the encoding `TEXT_ENCODING` (41_textcodec.md R146, 00_scope.md R8). -/
def wellformed (bs : List Byte) : Bool := (TextEncoding.firstBad Config.textEncoding bs).isNone

/-- `UNPACK` (41_textcodec.md R142). -/
def execUnpack (s : State) : Host.Outcome State Fault Refusal :=
  s.command .unpack (s.checkSize (8 * s.plen.toNat) <|> s.checkElements .byte .pbuf s.plen.toNat) fun s =>
    s.outSequence (8 * s.plen.toNat) fun k => bitWord ((bytesToBits (s.bytes .pbuf s.plen.toNat)).getD k false)

/-- `PACK` (41_textcodec.md R143). -/
def execPack (s : State) : Host.Outcome State Fault Refusal :=
  s.command .pack
    (s.checkSize s.plen.toNat
      <|> require (s.plen.toNat % 8 = 0) .len s.plen
      <|> s.checkElements .bit .pbuf s.plen.toNat) fun s =>
    s.outSequence (s.plen.toNat / 8) fun j => byteWord ((bitsToBytes (s.bits .pbuf s.plen.toNat)).getD j 0)

end Sys2Proof.Machine
end

