-- ==== Sys2Proof/Machine/Steganography.lean ====
section
/-! DEFINITION. Unit U_STEG (43_steganography.md): the carrier in CBUF, the payload in PBUF, the result in OBUF. -/

namespace Sys2Proof.Machine

/-- Commit of the flat embedding of `n` bits (43_steganography.md R193, R194): the first `min(n, cap)` cells have their
least significant bit set to the payload's, the others are copied; the shape is the carrier's (R192). -/
def State.embedFlat (s : State) (n : Nat) (bit : Nat → Bool) : State :=
  s.outImage s.crows s.ccols fun k =>
    if k < min n s.cap then setLsb (s.word .cbuf k) (bit k) else s.word .cbuf k

/-- Commit of the bounding-box embedding of `pr` by `pc` Booleans, the box at row 0, column 0 (43_steganography.md R193,
R196): cell (r, c) inside the box takes payload element `r * pc + c`, the others are copied. -/
def State.embedBox (s : State) (pr pc : Nat) (bit : Nat → Bool) : State :=
  s.outImage s.crows s.ccols <| rowMajor s.ccols.toNat fun r c =>
    let p := s.word .cbuf (r * s.ccols.toNat + c)
    if r < pr ∧ c < pc then setLsb p (bit (r * pc + c)) else p

/-- The rows of the payload as `imageToBinary` returns them: 0 for an empty payload (43_steganography.md R198). -/
def State.payloadRows (s : State) : Nat := if s.payloadEmpty then 0 else s.prows.toNat

/-- The columns of the payload as `imageToBinary` returns them: 0 for an empty payload (43_steganography.md R198). -/
def State.payloadCols (s : State) : Nat := if s.payloadEmpty then 0 else s.pcols.toNat

/-- The check that the cover is at least as large as the payload, else `raise E_DIM(0)` (43_steganography.md R196). -/
def State.checkDim (s : State) (pr pc : Nat) : Option Violation :=
  require (pr ≤ s.crows.toNat ∧ pc ≤ s.ccols.toNat) .dim 0

/-- The check that the message is well-formed, else `raise E_TEXT(firstbad)` (43_steganography.md R200). -/
def checkText (bs : List Byte) : Option Violation :=
  match TextEncoding.firstBad Config.textEncoding bs with
  | none => none
  | some k => some ⟨.text, natWord k⟩

/-- `EMBED_BITS` (43_steganography.md R194). -/
def execEmbedBits (s : State) : Host.Outcome State Fault Refusal :=
  s.command .embedBits
    (s.checkSize s.cap
      <|> s.checkSize s.plen.toNat
      <|> require (s.cap ≠ 0) .empty 0
      <|> s.checkElements .bit .pbuf s.plen.toNat)
    (fun s => s.embedFlat s.plen.toNat fun k => getLsb (s.word .pbuf k))
    fun s => { trunc := decide (s.cap < s.plen.toNat) }

/-- `REVEAL_BITS` (43_steganography.md R195). -/
def execRevealBits (s : State) : Host.Outcome State Fault Refusal :=
  s.command .revealBits (s.checkSize s.cap) fun s =>
    s.outSequence s.cap fun k => bitWord (getLsb (s.word .cbuf k))

/-- `EMBED_BIN` (43_steganography.md R196): the dimension check is on the registers literally. -/
def execEmbedBin (s : State) : Host.Outcome State Fault Refusal :=
  s.command .embedBin
    (s.checkSize s.cap
      <|> s.checkSize s.pn
      <|> s.checkDim s.prows.toNat s.pcols.toNat
      <|> s.checkElements .boolean .pbuf s.pn) fun s =>
    s.embedBox s.prows.toNat s.pcols.toNat fun k => getLsb (s.word .pbuf k)

/-- `REVEAL_BIN` (43_steganography.md R197). -/
def execRevealBin (s : State) : Host.Outcome State Fault Refusal :=
  s.command .revealBin (s.checkSize s.cap <|> require (s.crows = s.ccols) .square 0) fun s =>
    s.outImage s.crows s.ccols fun k => bitWord (getLsb (s.word .cbuf k))

/-- `EMBED_GRAY thr` (43_steganography.md R198). -/
def execEmbedGray (thr : BitVec 16) (s : State) : Host.Outcome State Fault Refusal :=
  s.command (.embedGray thr)
    (s.checkSize s.cap
      <|> s.checkSize s.pn
      <|> s.checkDim s.payloadRows s.payloadCols
      <|> s.checkElements .grey .pbuf (s.payloadRows * s.payloadCols)) fun s =>
    s.embedBox s.payloadRows s.payloadCols fun k => binarize (wordByte (s.word .pbuf k)) thr

/-- `EMBED_COLOR thr` (43_steganography.md R199). -/
def execEmbedColor (thr : BitVec 16) (s : State) : Host.Outcome State Fault Refusal :=
  s.command (.embedColor thr)
    (s.checkSize s.cap <|> s.checkSize s.pn <|> s.checkDim s.payloadRows s.payloadCols) fun s =>
    s.embedBox s.payloadRows s.payloadCols fun k => binarize (grayscale (s.word .pbuf k)) thr

/-- `EMBED_TEXT` (43_steganography.md R200). The bit sequence of the message is internal and not limited by BUFW. -/
def execEmbedText (s : State) : Host.Outcome State Fault Refusal :=
  s.command .embedText
    (s.checkSize s.cap
      <|> s.checkSize s.plen.toNat
      <|> require (s.cap ≠ 0) .empty 0
      <|> s.checkElements .byte .pbuf s.plen.toNat
      <|> checkText (s.bytes .pbuf s.plen.toNat))
    (fun s => s.embedFlat (8 * s.plen.toNat) fun k => (bytesToBits (s.bytes .pbuf s.plen.toNat)).getD k false)
    fun s => { trunc := decide (s.cap < 8 * s.plen.toNat), wf := true }

/-- The bytes REVEAL_TEXT returns: the least significant bits of the carrier, the trailing incomplete byte dropped
(43_steganography.md R201). -/
def State.revealedBytes (s : State) : List Byte := bitsToBytes (s.bits .cbuf s.cap)

/-- `REVEAL_TEXT` (43_steganography.md R201). -/
def execRevealText (s : State) : Host.Outcome State Fault Refusal :=
  s.command .revealText (s.checkSize s.cap)
    (fun s => s.outSequence (s.cap / 8) fun j => byteWord (s.revealedBytes.getD j 0))
    fun s => { wf := wellformed s.revealedBytes }

end Sys2Proof.Machine
end

