-- ==== Sys2Proof/Machine/Dispatch.lean ====
section
/-! DEFINITION. One arm per command: steps 3 to 6 of the execution template (30_encoding.md R90). -/

namespace Sys2Proof.Machine

def exec (i : Instr) (s : State) : Host.Outcome State Fault Refusal :=
  match i with
  | .setbit pos bit => Sys2Proof.Machine.execSetbit pos bit s
  | .getbit pos => Sys2Proof.Machine.execGetbit pos s
  | .b2bits => Sys2Proof.Machine.execB2bits s
  | .bits2b => Sys2Proof.Machine.execBits2b s
  | .unpack => Sys2Proof.Machine.execUnpack s
  | .pack => Sys2Proof.Machine.execPack s
  | .compose => Sys2Proof.Machine.execCompose s
  | .extract ch => Sys2Proof.Machine.execExtract ch s
  | .gray => Sys2Proof.Machine.execGray s
  | .binz thr => Sys2Proof.Machine.execBinz thr s
  | .img2gray => Sys2Proof.Machine.execImg2gray s
  | .img2bin thr => Sys2Proof.Machine.execImg2bin thr s
  | .gray2img => Sys2Proof.Machine.execGray2img s
  | .bin2img => Sys2Proof.Machine.execBin2img s
  | .embedBits => Sys2Proof.Machine.execEmbedBits s
  | .revealBits => Sys2Proof.Machine.execRevealBits s
  | .embedBin => Sys2Proof.Machine.execEmbedBin s
  | .revealBin => Sys2Proof.Machine.execRevealBin s
  | .embedGray thr => Sys2Proof.Machine.execEmbedGray thr s
  | .embedColor thr => Sys2Proof.Machine.execEmbedColor thr s
  | .embedText => Sys2Proof.Machine.execEmbedText s
  | .revealText => Sys2Proof.Machine.execRevealText s
  | .caesarEnc key => Sys2Proof.Machine.execCaesarEnc key s
  | .caesarDec key => Sys2Proof.Machine.execCaesarDec key s
  | .vigEnc => Sys2Proof.Machine.execVigEnc s
  | .vigDec => Sys2Proof.Machine.execVigDec s
  | .xork key => Sys2Proof.Machine.execXork key s
  | .otp => Sys2Proof.Machine.execOtp s
  | .cbcEnc => Sys2Proof.Machine.execCbcEnc s
  | .cbcDec => Sys2Proof.Machine.execCbcDec s
  | .move dst => Sys2Proof.Machine.execMove dst s

end Sys2Proof.Machine
end

