-- ==== Sys2Proof/Machine/Port.lean ====
section
/-! DEFINITION. The host port (20_memory.md R72 to R78) over the address map of 10_state.md R32. -/

namespace Sys2Proof.Machine

/-- The registers of the address table (10_state.md R32). -/
inductive Reg where
  | id | cap | bufsz | ctrl | cmd | status | errcode | errcmd | errinfo
  | a0 | a1 | a2 | a3 | res
  | crows | ccols | prows | pcols | plen | klen
  | orows | ocols | olen
  deriving DecidableEq, Repr

/-- The register's word address (10_state.md R32). -/
def Reg.address : Reg → Nat
  | .id => 0x00
  | .cap => 0x01
  | .bufsz => 0x02
  | .ctrl => 0x03
  | .cmd => 0x04
  | .status => 0x05
  | .errcode => 0x06
  | .errcmd => 0x07
  | .errinfo => 0x08
  | .a0 => 0x10
  | .a1 => 0x11
  | .a2 => 0x12
  | .a3 => 0x13
  | .res => 0x14
  | .crows => 0x18
  | .ccols => 0x19
  | .prows => 0x1A
  | .pcols => 0x1B
  | .plen => 0x1C
  | .klen => 0x1D
  | .orows => 0x1E
  | .ocols => 0x1F
  | .olen => 0x20

/-- Every register of the table, in its order. -/
def Reg.all : List Reg :=
  [.id, .cap, .bufsz, .ctrl, .cmd, .status, .errcode, .errcmd, .errinfo, .a0, .a1, .a2, .a3, .res,
   .crows, .ccols, .prows, .pcols, .plen, .klen, .orows, .ocols, .olen]

/-- The first word address of a buffer's window (10_state.md R32). -/
def bufferBase : Buffer → Nat
  | .cbuf => 0x100000
  | .pbuf => 0x200000
  | .kbuf => 0x300000
  | .obuf => 0x400000

/-- What a mapped address names. -/
inductive Target where
  | reg (r : Reg)
  | word (b : Buffer) (i : Nat)
  deriving DecidableEq, Repr

/-- The word of a buffer that an address names: `base + i` with `0 <= i < BUFW` (20_memory.md R74, R76). -/
def bufferAt (bufw a : Nat) : Option Target :=
  ([.cbuf, .pbuf, .kbuf, .obuf] : List Buffer).findSome? fun b =>
    if bufferBase b ≤ a ∧ a < bufferBase b + bufw then some (.word b (a - bufferBase b)) else none

/-- The address map (10_state.md R32): `none` is an unmapped address (20_memory.md R76). -/
def locate (bufw : Nat) (addr : Word) : Option Target :=
  match Reg.all.find? fun r => r.address == addr.toNat with
  | some r => some (.reg r)
  | none => bufferAt bufw addr.toNat

/-- What a read of a register returns (20_memory.md R73, 10_state.md R29): `CTRL` and `CMD` read 0. -/
def State.readReg (s : State) : Reg → Word
  | .id => Config.idValue
  | .cap => bitWord s.cfg.hasCipher
  | .bufsz => natWord s.cfg.bufw
  | .ctrl => 0
  | .cmd => 0
  | .status => s.status
  | .errcode => s.errcode
  | .errcmd => s.errcmd
  | .errinfo => s.errinfo
  | .a0 => s.a0
  | .a1 => s.a1
  | .a2 => s.a2
  | .a3 => s.a3
  | .res => s.res
  | .crows => s.crows
  | .ccols => s.ccols
  | .prows => s.prows
  | .pcols => s.pcols
  | .plen => s.plen
  | .klen => s.klen
  | .orows => s.orows
  | .ocols => s.ocols
  | .olen => s.olen

/-- `write(CMD, w)` (30_encoding.md R90): refused while `ERR` = 1, without decoding (R92); an illegal word raises
E_ILLEGAL(0) (R99); a command runs. -/
def State.writeCmd (s : State) (w : Word) : Host.Outcome State Fault Refusal :=
  if s.err then .next s.refuse
  else
    match decode s.cfg.hasCipher w with
    | .error _ => .next (s.raise w .illegal 0)
    | .ok i => exec i s

/-- `write(CTRL, data)` (20_memory.md R78): `CLRERR` if `data[0]` = 1, else nothing. -/
def State.writeCtrl (s : State) (data : Word) : State := if data.getLsbD 0 then s.clrErr else s

/-- The write of a register that holds host data (20_memory.md R73); a read-only one ignores it (R75). `CTRL` and `CMD`
hold nothing. -/
def State.writeReg (s : State) (v : Word) : Reg → State
  | .a0 => { s with a0 := v }
  | .a1 => { s with a1 := v }
  | .a2 => { s with a2 := v }
  | .a3 => { s with a3 := v }
  | .crows => { s with crows := v }
  | .ccols => { s with ccols := v }
  | .prows => { s with prows := v }
  | .pcols => { s with pcols := v }
  | .plen => { s with plen := v }
  | .klen => { s with klen := v }
  | .id | .cap | .bufsz | .status | .errcode | .errcmd | .errinfo | .res | .orows | .ocols | .olen => s
  | .ctrl | .cmd => s

/-- The write of a buffer word (20_memory.md R74): CBUF, PBUF and KBUF store it, OBUF is read-only (R75). -/
def State.writeBuffer (s : State) (b : Buffer) (i : Nat) (v : Word) : State :=
  match b with
  | .obuf => s
  | .cbuf | .pbuf | .kbuf => s.setWord b i v

/-- `read(addr)` (20_memory.md R73, R74, R76): no state of the engine changes. -/
def State.readPort (s : State) (addr : Word) : State :=
  match locate s.cfg.bufw addr with
  | none => s.answer (.readDone .decErr 0)
  | some (.reg r) => s.answer (.readDone .okay (s.readReg r))
  | some (.word b i) => s.answer (.readDone .okay (s.word b i))

/-- `write(addr, data)` (20_memory.md R73 to R78). -/
def State.writePort (s : State) (addr data : Word) : Host.Outcome State Fault Refusal :=
  match locate s.cfg.bufw addr with
  | none => .next (s.answer (.writeDone .decErr))
  | some (.reg .cmd) => s.writeCmd data
  | some (.reg .ctrl) => .next ((s.writeCtrl data).answer (.writeDone .okay))
  | some (.reg r) => .next ((s.writeReg data r).answer (.writeDone .okay))
  | some (.word b i) => .next ((s.writeBuffer b i data).answer (.writeDone .okay))

/-- The reset transaction (70_reset_and_hazards.md R290, R292): every register 0, no buffer word written any more and
the unwritten words unspecified anew (log 5). -/
def State.resetTxn (s : State) : State := State.resetWith s.cfg (s.resets + 1) s.host

/-- One host-port transaction, complete before the next begins (20_memory.md R72, R80). -/
def State.transact (s : State) (t : Txn) : Host.Outcome State Fault Refusal :=
  match t with
  | .read addr => .next (s.readPort addr)
  | .write addr data => s.writePort addr data
  | .reset => .next s.resetTxn

end Sys2Proof.Machine
end

