-- ==== Sys2Proof/Machine/Step.lean ====
section
/-! DEFINITION. One step: the host's next transaction (20_memory.md R72, R80). -/

namespace Sys2Proof.Machine

/-- The host performs its next transaction. With none left the engine is idle and keeps all its state
(60_exceptions.md R282; log 7). -/
def step (s : State) : Host.Outcome State Fault Refusal :=
  match s.host with
  | [] => .next s
  | t :: rest => ({ s with host := rest }).transact t

/-- The host's very next transaction becomes the write of this command word to `CMD`; what it was going to do comes
after it (log 1). -/
def State.withFetchWord (s : State) (nbits w : Nat) : State :=
  { s with host := .write 0x000004#32 (tableWord nbits w) :: s.host }

end Sys2Proof.Machine
end

