-- ==== Sys2Proof/Machine/HostOps.lean ====
section
/-! DEFINITION. The host-operation notation of 30_encoding.md R104: what each line performs on the host port. -/

namespace Sys2Proof.Machine

/-- A line of a host program (30_encoding.md R104). -/
inductive HostOp where
  /-- `WR reg, v` -/
  | wr (r : Reg) (v : Word)
  /-- `RD reg` -/
  | rd (r : Reg)
  /-- `WRB buf, [v0, v1, ...]` -/
  | wrb (b : Buffer) (vs : List Word)
  /-- `RDB buf, n` -/
  | rdb (b : Buffer) (n : Nat)
  /-- a command line -/
  | command (i : Instr)
  /-- `CLRERR` -/
  | clrErr
  /-- `RESET` -/
  | reset
  deriving DecidableEq, Repr

/-- The host-port address of a register (10_state.md R32). -/
def regAddr (r : Reg) : Word := natWord r.address

/-- The host-port address of a buffer word (10_state.md R32). -/
def wordAddr (b : Buffer) (i : Nat) : Word := natWord (bufferBase b + i)

/-- Writes of successive buffer words from index `k` up. -/
def writesFrom (b : Buffer) : Nat → List Word → List Txn
  | _, [] => []
  | k, v :: vs => .write (wordAddr b k) v :: writesFrom b (k + 1) vs

/-- The transactions of a line (30_encoding.md R104). -/
def HostOp.txns : HostOp → List Txn
  | .wr r v => [.write (regAddr r) v]
  | .rd r => [.read (regAddr r)]
  | .wrb b vs => writesFrom b 0 vs
  | .rdb b n => (List.range n).map fun k => .read (wordAddr b k)
  | .command i => [.write (regAddr .cmd) (encode i)]
  | .clrErr => [.write (regAddr .ctrl) 1]
  | .reset => [.reset]

/-- The transactions of a program, a straight list (30_encoding.md R101, R104). -/
def hostProgram (ops : List HostOp) : List Txn := ops.flatMap HostOp.txns

end Sys2Proof.Machine
end

