-- ==== Sys2Proof/Safety.lean ====
section
/-! DEFINITION. The invariant of every run, and the vocabulary in which claims say what a transaction changes. -/

namespace Sys2Proof.Machine

/-- The invariant: (a) to (e) of 10_state.md R31, buffers in canonical form inside their depth (10_state.md R30; the
form is the model's, log 6), and parameters within the constraint of 00_scope.md R8. -/
structure State.Inv (s : State) : Prop where
  config : s.cfg.Valid
  olenFits : s.olen.toNat ≤ s.cfg.bufw
  olenShape : s.olen.toNat = s.orows.toNat * s.ocols.toNat ∨ (s.orows = 0 ∧ s.ocols = 0)
  noFault : s.err = false → s.errcode = 0 ∧ s.errcmd = 0 ∧ s.errinfo = 0
  faultCode : s.err = true → 1 ≤ s.errcode.toNat ∧ s.errcode.toNat ≤ 13
  reserved : s.status.extractLsb' 3 29 = 0
  canonical : ∀ b, Memory.wf s.cfg.bufw (s.mem b)

/-- Every register of the address table but those listed reads the same. -/
def SameRegsBut (l : List Reg) (s t : State) : Prop := ∀ r, r ∉ l → t.readReg r = s.readReg r

/-- Every word of a buffer reads the same. -/
def SameWords (b : Buffer) (s t : State) : Prop := ∀ i, t.word b i = s.word b i

/-- The parameters, the count of resets and the host's remaining transactions are the same. -/
structure SameHost (s t : State) : Prop where
  cfg : t.cfg = s.cfg
  resets : t.resets = s.resets
  host : t.host = s.host

/-- A command has completed (30_encoding.md R90, steps 5 and 6): `TRUNC` and `WF` are written, `ERR` and the reserved
bits of STATUS are as before, the response is OKAY. -/
structure Completed (s t : State) (f : FlagValues) : Prop where
  sameHost : SameHost s t
  err : t.err = s.err
  trunc : t.trunc = f.trunc
  wf : t.wellFormedFlag = f.wf
  reserved : t.status.extractLsb' 3 29 = s.status.extractLsb' 3 29
  reply : t.reply = some (.writeDone .okay)

/-- A scalar command has completed with result `v`: `RES` and STATUS are written, nothing else (10_state.md R23). -/
structure ScalarResult (s t : State) (v : Word) : Prop where
  completed : Completed s t {}
  res : t.res = v
  regs : SameRegsBut [.status, .res] s t
  words : ∀ b, SameWords b s t

/-- A command that writes OBUF has completed: the output descriptors and STATUS are written, OBUF from word `n` on and
everything else is as before (10_state.md R26, 20_memory.md R63). What words 0 to `n - 1` hold is said apart. -/
structure OutputFrame (s t : State) (rows cols : Word) (n : Nat) (f : FlagValues) : Prop where
  completed : Completed s t f
  orows : t.orows = rows
  ocols : t.ocols = cols
  olen : t.olen.toNat = n
  regs : SameRegsBut [.status, .orows, .ocols, .olen] s t
  words : ∀ b, b ≠ .obuf → SameWords b s t
  tail : ∀ i, n ≤ i → t.word .obuf i = s.word .obuf i

/-- The fault `f` with `info` is recorded for the command word `w`, and nothing else has changed (60_exceptions.md R266). -/
structure FaultRecorded (s t : State) (w : Word) (f : Fault) (info : Word) : Prop where
  sameHost : SameHost s t
  err : t.err = true
  errcode : t.errcode = BitVec.ofNat 32 f.code.toNat
  errcmd : t.errcmd = w
  errinfo : t.errinfo = info
  trunc : t.trunc = s.trunc
  wf : t.wellFormedFlag = s.wellFormedFlag
  reserved : t.status.extractLsb' 3 29 = s.status.extractLsb' 3 29
  reply : t.reply = some (.writeDone .cmdErr)
  regs : SameRegsBut [.status, .errcode, .errcmd, .errinfo] s t
  words : ∀ b, SameWords b s t

/-- The command `i` raises `f(info)` in the state `s`. -/
def Raises (i : Instr) (s : State) (f : Fault) (info : Word) : Prop :=
  ∃ t, exec i s = .next t ∧ FaultRecorded s t (encode i) f info

/-- The scalar command `i` completes in the state `s` with result `v`. -/
def YieldsScalar (i : Instr) (s : State) (v : Word) : Prop := ∃ t, exec i s = .next t ∧ ScalarResult s t v

/-- The command `i` completes in the state `s` with a sequence of `n` elements in OBUF. -/
def YieldsSequence (i : Instr) (s : State) (n : Nat) (elem : Nat → Word) (f : FlagValues := {}) : Prop :=
  ∃ t, exec i s = .next t ∧ OutputFrame s t 0 0 n f ∧ ∀ k < n, t.word .obuf k = elem k

/-- The command `i` completes in the state `s` with an image in OBUF: cell (r, c) at word `r * cols + c`. -/
def YieldsImage (i : Instr) (s : State) (rows cols : Word) (cell : Nat → Nat → Word) (f : FlagValues := {}) : Prop :=
  ∃ t, exec i s = .next t ∧ OutputFrame s t rows cols (rows.toNat * cols.toNat) f ∧
    ∀ r < rows.toNat, ∀ c < cols.toNat, t.word .obuf (r * cols.toNat + c) = cell r c

/-- Words 0 to `n - 1` of a buffer are at most `bound`. -/
abbrev AllAtMost (s : State) (b : Buffer) (n bound : Nat) : Prop := ∀ k < n, (s.word b k).toNat ≤ bound

/-- `k` is the index of the first word above `bound` among words 0 to `n - 1`. -/
abbrev FirstAbove (s : State) (b : Buffer) (n bound k : Nat) : Prop :=
  k < n ∧ bound < (s.word b k).toNat ∧ AllAtMost s b k bound

/-- The command's word is `opcode | (field << 8)`, and a word with this opcode and a 1 among bits 31:`lowZero` is no
command (30_encoding.md R93, R99). -/
def HasEncoding (i : Instr) (opcode lowZero field : Nat) : Prop :=
  (encode i).toNat = opcode + 256 * field ∧
    ∀ hc (w : Word), w.toNat % 256 = opcode → w.toNat / 2 ^ lowZero ≠ 0 → ∀ j, decode hc w ≠ .ok j

/-- While `ERR` = 1 only a write of `CTRL` with bit 0 set or a reset leads to `ERR` = 0. -/
def OnlyClearedByClrErrOrReset : Prop :=
  ∀ s t : State, s.err = true → step s = .next t → t.err = false →
    (∃ data rest, s.host = .write 3 data :: rest ∧ data.getLsbD 0 = true) ∨ ∃ rest, s.host = .reset :: rest

end Sys2Proof.Machine
end

