-- ==== Sys2Proof/Certificates/Slice0/Obligations.lean ====
section
/-! DEFINITION. The statements about the model, from the numbered rules of spec/. Each `def Obligations.<Name>` says which
rule it formalises; OBLIGATIONS.json lists them. `exec i s` is steps 3 to 6 of the execution template (30_encoding.md R90)
for the decoded command `i`: the port reaches it only with `ERR` = 0 (log 12). What a command of an absent U_CIPH does is
said once, in `CipherUnitIsOptional`. -/

open Sys2Proof Sys2Proof.Machine

/-! ### Words the statements use -/

/-- Case (a) of 30_encoding.md R99: the opcodes that are not assigned. -/
def Sys2Proof.Machine.UnassignedOpcode (op : Nat) : Prop :=
  op ≤ 0x0F ∨ (0x14 ≤ op ∧ op ≤ 0x1F) ∨ (0x22 ≤ op ∧ op ≤ 0x2F) ∨ (0x38 ≤ op ∧ op ≤ 0x3F) ∨
    (0x48 ≤ op ∧ op ≤ 0x4F) ∨ (0x58 ≤ op ∧ op ≤ 0x5F) ∨ (0x61 ≤ op ∧ op ≤ 0xFF)

/-- For each opcode of R96 the lowest of the bits 31:n its format marks zero (30_encoding.md R93). -/
def Sys2Proof.Machine.formatZeros : List (Nat × Nat) :=
  [(0x10, 17), (0x11, 16), (0x12, 8), (0x13, 8), (0x20, 8), (0x21, 8), (0x30, 8), (0x31, 10), (0x32, 8), (0x33, 24),
   (0x34, 8), (0x35, 24), (0x36, 8), (0x37, 8), (0x40, 8), (0x41, 8), (0x42, 8), (0x43, 8), (0x44, 24), (0x45, 24),
   (0x46, 8), (0x47, 8), (0x50, 16), (0x51, 16), (0x52, 8), (0x53, 8), (0x54, 16), (0x55, 8), (0x56, 8), (0x57, 8),
   (0x60, 10)]

/-- The four cases (a) to (d) of 30_encoding.md R99. -/
def Sys2Proof.Machine.IllegalCase (hasCipher : Bool) (w : Word) : Prop :=
  UnassignedOpcode (w.toNat % 256) ∨
    (0x50 ≤ w.toNat % 256 ∧ w.toNat % 256 ≤ 0x57 ∧ hasCipher = false) ∨
    (∃ row ∈ formatZeros, row.1 = w.toNat % 256 ∧ w.toNat / 2 ^ row.2 ≠ 0) ∨
    (w.toNat % 256 = 0x60 ∧ w.toNat / 256 % 4 = 3)

/-- The registers a host reads, with their addresses and what a read returns (10_state.md R29, R32; 20_memory.md R73). -/
def Sys2Proof.Machine.readTable (s : State) : List (Word × Word) :=
  [(0x00, 0x4C534501), (0x01, if s.cfg.hasCipher then 1 else 0), (0x02, BitVec.ofNat 32 s.cfg.bufw), (0x03, 0), (0x04, 0),
   (0x05, s.status), (0x06, s.errcode), (0x07, s.errcmd), (0x08, s.errinfo), (0x10, s.a0), (0x11, s.a1), (0x12, s.a2),
   (0x13, s.a3), (0x14, s.res), (0x18, s.crows), (0x19, s.ccols), (0x1A, s.prows), (0x1B, s.pcols), (0x1C, s.plen),
   (0x1D, s.klen), (0x1E, s.orows), (0x1F, s.ocols), (0x20, s.olen)]

/-- The read-write registers and their addresses (10_state.md R32). -/
def Sys2Proof.Machine.writeTable : List (Word × Reg) :=
  [(0x10, .a0), (0x11, .a1), (0x12, .a2), (0x13, .a3), (0x18, .crows), (0x19, .ccols), (0x1A, .prows), (0x1B, .pcols),
   (0x1C, .plen), (0x1D, .klen)]

/-- The first address of each buffer's window (10_state.md R32). -/
def Sys2Proof.Machine.windowTable : List (Nat × Buffer) :=
  [(0x100000, .cbuf), (0x200000, .pbuf), (0x300000, .kbuf), (0x400000, .obuf)]

/-- An address that is in no row of the table of 10_state.md R32 (20_memory.md R76). -/
def Sys2Proof.Machine.Unmapped (bufw : Nat) (addr : Word) : Prop :=
  (0x09 ≤ addr.toNat ∧ addr.toNat ≤ 0x0F) ∨ (0x15 ≤ addr.toNat ∧ addr.toNat ≤ 0x17) ∨
    (0x21 ≤ addr.toNat ∧ ∀ row ∈ windowTable, ¬(row.1 ≤ addr.toNat ∧ addr.toNat < row.1 + bufw))

/-- The state with the host's next transaction taken: only a transaction's own effect is still to come. -/
def Sys2Proof.Machine.State.taken (s : State) (rest : List Txn) : State := { s with host := rest }

/-- The eight bits at `f 0` to `f 7`, the first most significant, as a number (20_memory.md R66). -/
def Sys2Proof.Machine.bitSum (f : Nat → Nat) : Nat := ∑ i ∈ Finset.range 8, f i * 2 ^ (7 - i)

/-- The bytes match one row of the table of well-formed subsequences, W1 to W9 (41_textcodec.md R145). -/
def Sys2Proof.Machine.MatchesUtf8Row (c : List Byte) : Prop :=
  match c.map BitVec.toNat with
  | [a] => a ≤ 0x7F
  | [a, b] => (0xC2 ≤ a ∧ a ≤ 0xDF) ∧ 0x80 ≤ b ∧ b ≤ 0xBF
  | [a, b, c] =>
    ((a = 0xE0 ∧ 0xA0 ≤ b ∧ b ≤ 0xBF) ∨ (0xE1 ≤ a ∧ a ≤ 0xEC ∧ 0x80 ≤ b ∧ b ≤ 0xBF) ∨
      (a = 0xED ∧ 0x80 ≤ b ∧ b ≤ 0x9F) ∨ (0xEE ≤ a ∧ a ≤ 0xEF ∧ 0x80 ≤ b ∧ b ≤ 0xBF)) ∧ 0x80 ≤ c ∧ c ≤ 0xBF
  | [a, b, c, d] =>
    ((a = 0xF0 ∧ 0x90 ≤ b ∧ b ≤ 0xBF) ∨ (0xF1 ≤ a ∧ a ≤ 0xF3 ∧ 0x80 ≤ b ∧ b ≤ 0xBF) ∨
      (a = 0xF4 ∧ 0x80 ≤ b ∧ b ≤ 0x8F)) ∧ (0x80 ≤ c ∧ c ≤ 0xBF) ∧ 0x80 ≤ d ∧ d ≤ 0xBF
  | _ => False

/-- The result of `i` in OBUF, moved to PBUF, is turned by `j` into the payload `s` began with (44_cipher.md R230). -/
def Sys2Proof.Machine.Undoes (i j : Instr) (s : State) : Prop :=
  ∃ t₁ t₂ t₃, exec i s = .next t₁ ∧ exec (.move .p) t₁ = .next t₂ ∧ exec j t₂ = .next t₃ ∧ t₃.olen = s.plen ∧
    t₃.reply = some (.writeDone .okay) ∧ ∀ k < s.plen.toNat, t₃.word .obuf k = s.word .pbuf k

/-- The first `n` words of PBUF fit and are bytes, and U_CIPH is present: the data checks of 44_cipher.md R221. -/
structure Sys2Proof.Machine.LegalData (s : State) : Prop where
  unit : s.cfg.hasCipher = true
  fits : s.plen.toNat ≤ s.cfg.bufw
  legal : AllAtMost s .pbuf s.plen.toNat 255

/-- The first `KLEN` words of KBUF fit and are bytes: the key checks of 44_cipher.md R221. -/
structure Sys2Proof.Machine.LegalKey (s : State) : Prop where
  fits : s.klen.toNat ≤ s.cfg.bufw
  legal : AllAtMost s .kbuf s.klen.toNat 255

/-! ### Encoding -/

/-- Decode and encode agree (30_encoding.md R93, R95, R96): every command an instance has, with every immediate, is what
its own word decodes to. -/
def Obligations.EncodedCommandDecodesToItself : Prop :=
  ∀ hc i, Instr.wf hc i = true → decode hc (encode i) = .ok i

/-- Every legal word is exactly one command's word: the zero bits of the formats (30_encoding.md R93) and decode (R95) leave
each command of R96 one word. -/
def Obligations.LegalWordIsTheEncodingOfOneCommand : Prop :=
  ∀ hc w i, decode hc w = .ok i → encode i = w ∧ Instr.wf hc i = true

/-- 30_encoding.md R99: the illegal words are exactly those of cases (a) to (d), and writing one to `CMD` with `ERR` = 0
raises E_ILLEGAL(0); the all-zero word is one; an out-of-range position is none. -/
def Obligations.IllegalWordsAreTheFourCases : Prop :=
  (∀ hc w, (∀ i, decode hc w ≠ .ok i) ↔ IllegalCase hc w) ∧
  (∀ s w rest, s.err = false → s.host = .write 4#32 w :: rest → IllegalCase s.cfg.hasCipher w →
    ∃ t, step s = .next t ∧ FaultRecorded (s.taken rest) t w .illegal 0#32) ∧
  (∀ hc, IllegalCase hc 0#32) ∧
  (∀ hc (pos : BitVec 8) (bit : Bool),
    decode hc (BitVec.ofNat 32 (0x10 + 256 * pos.toNat + 65536 * bit.toNat)) = .ok (.setbit pos bit)) ∧
  (∀ hc (pos : BitVec 8), decode hc (BitVec.ofNat 32 (0x11 + 256 * pos.toNat)) = .ok (.getbit pos))

/-- One word of each unit, and one of each format, from the tables of the spec (30_encoding.md R102). -/
def Obligations.WordsOfTheSpecDecode : Prop :=
  decode true 0x00010510#32 = .ok (.setbit 5 true) ∧ decode true 0x00001F11#32 = .ok (.getbit 31) ∧
  decode true 0x00000021#32 = .ok .pack ∧ decode true 0x00000131#32 = .ok (.extract .red) ∧
  decode true 0x00008035#32 = .ok (.img2bin 128) ∧ decode true 0x00000040#32 = .ok .embedBits ∧
  decode true 0x00000350#32 = .ok (.caesarEnc 3) ∧ decode true 0x00000160#32 = .ok (.move .p)

/-- The optional unit (30_encoding.md R98): with `HAS_CIPHER` = 0 the opcodes 0x50 to 0x57 are illegal, every other word
decodes as with `HAS_CIPHER` = 1, and `CAP` reads 0; with `HAS_CIPHER` = 1 `CAP` reads 1. That the command itself raises
E_ILLEGAL without the unit is the model's form of the same (log 9). -/
def Obligations.CipherUnitIsOptional : Prop :=
  (∀ w : Word, 0x50 ≤ w.toNat % 256 → w.toNat % 256 ≤ 0x57 → ∀ i, decode false w ≠ .ok i) ∧
  (∀ w : Word, ¬(0x50 ≤ w.toNat % 256 ∧ w.toNat % 256 ≤ 0x57) → decode false w = decode true w) ∧
  (∀ s : State, s.readReg .cap = if s.cfg.hasCipher then 1#32 else 0#32) ∧
  (∀ i s, i.unit = .ciph → s.cfg.hasCipher = false → Raises i s .illegal 0#32)

/-! ### The step, faults, refusal -/

/-- A step runs the decoded command (30_encoding.md R90, 20_memory.md R77): the model takes the transaction off the host's
list (log 1), and nothing else is added around `exec`. -/
def Obligations.StepRunsTheDecodedCommand : Prop :=
  ∀ s w rest i, s.err = false → s.host = .write 4#32 w :: rest → decode s.cfg.hasCipher w = .ok i →
    step s = exec i (s.taken rest)

/-- 30_encoding.md R92: while `ERR` = 1 a `CMD` write changes no state, the word is not decoded, the response is CMDERR;
only `CLRERR` or reset leaves this condition. -/
def Obligations.RefusedWhileErrIsSet : Prop :=
  (∀ s w rest, s.err = true → s.host = .write 4#32 w :: rest →
    step s = .next { s.taken rest with reply := some (.writeDone .cmdErr) }) ∧
  OnlyClearedByClrErrOrReset

/-- 60_exceptions.md R266 for every word that can be written to `CMD` with `ERR` = 0: where the write leaves `ERR` set or
answers anything but OKAY, the answer is CMDERR, the four parts of the fault record are written and nothing else changes.
The second clause is the numbering of the codes in the table of R260. -/
def Obligations.FaultRecordsAndChangesNothingElse : Prop :=
  (∀ s w rest t, s.err = false → s.host = .write 4#32 w :: rest → step s = .next t →
    t.err = true ∨ t.reply ≠ some (.writeDone .okay) → ∃ f info, FaultRecorded (s.taken rest) t w f info) ∧
  [Fault.illegal, .pos, .size, .empty, .dim, .square, .len, .keyEmpty, .padLen, .block, .range, .elem, .text].map
    (fun f => f.code.toNat) = [1, 2, 3, 4, 5, 6, 7, 8, 9, 10, 11, 12, 13]

/-- 45_move_control.md R253 and 20_memory.md R78: a write to `CTRL` with bit 0 set clears `ERR` and the fault record and
changes nothing else, and nothing at all where no fault is recorded; with bit 0 clear it changes nothing; bits 31:1 do not
matter. -/
def Obligations.ClrErrClearsTheFaultRecord : Prop :=
  ∀ s data rest, s.host = .write 3#32 data :: rest →
    ∃ t, step s = .next t ∧ t.reply = some (.writeDone .okay) ∧ SameHost (s.taken rest) t ∧
      t.err = (s.err && !data.getLsbD 0) ∧ t.trunc = s.trunc ∧ t.wellFormedFlag = s.wellFormedFlag ∧
      t.status.extractLsb' 3 29 = s.status.extractLsb' 3 29 ∧
      (data.getLsbD 0 = true → t.errcode = 0 ∧ t.errcmd = 0 ∧ t.errinfo = 0) ∧
      (data.getLsbD 0 = false → t.errcode = s.errcode ∧ t.errcmd = s.errcmd ∧ t.errinfo = s.errinfo) ∧
      SameRegsBut [.status, .errcode, .errcmd, .errinfo] s t ∧ (∀ b, SameWords b s t) ∧
      (s.err = false → s.errcode = 0 → s.errcmd = 0 → s.errinfo = 0 →
        t = { s.taken rest with reply := some (.writeDone .okay) })

/-- 70_reset_and_hazards.md R305, which the spec marks as its own inference: every transaction, every `CMD` write among
them, ends; the port never hangs. That the model answers a next state for each is its form of a fault (log 13). -/
def Obligations.EveryStepAnswersANextState : Prop :=
  (∀ s, ∃ t, step s = .next t) ∧ ∀ i s, ∃ t, exec i s = .next t

/-! ### Invariants -/

/-- The invariant of `StepKeepsTheInvariant` holds after a reset of every instance (10_state.md R35). Its clause on the
canonical form of the buffers (log 6) and the instance of `State.reset` (log 3) are the model's choices. -/
def Obligations.ResetSatisfiesTheInvariant : Prop :=
  (∀ cfg n host, cfg.Valid → (State.resetWith cfg n host).Inv) ∧ State.reset.Inv

/-- Every step keeps the invariant, from every state that has it: 10_state.md R31, the reserved bits of R27, and the
model's own canonical form of the buffers (log 6). -/
def Obligations.StepKeepsTheInvariant : Prop := ∀ s t : State, s.Inv → step s = .next t → t.Inv

/-- 70_reset_and_hazards.md R297, which the spec marks as its own inference, with 10_state.md R22 and R25: no command
writes `A0` to `A3`; only MOVE writes an input descriptor or an input buffer; MOVE leaves OBUF, its descriptors and
`RES`. -/
def Obligations.CommandsKeepTheirInputs : Prop :=
  ∀ i s t, exec i s = .next t →
    SameHost s t ∧ t.a0 = s.a0 ∧ t.a1 = s.a1 ∧ t.a2 = s.a2 ∧ t.a3 = s.a3 ∧
    (i.unit ≠ .move →
      SameRegsBut [.status, .errcode, .errcmd, .errinfo, .res, .orows, .ocols, .olen] s t ∧
        SameWords .cbuf s t ∧ SameWords .pbuf s t ∧ SameWords .kbuf s t) ∧
    (i.unit = .move →
      SameWords .obuf s t ∧ t.orows = s.orows ∧ t.ocols = s.ocols ∧ t.olen = s.olen ∧ t.res = s.res)

/-- 10_state.md R33: the flag values of every completed command, and `ERR` after every faulting one. -/
def Obligations.FlagsAfterEveryCommand : Prop :=
  ∀ i s t, s.cfg.Valid → exec i s = .next t →
    (t.reply = some (.writeDone .okay) →
      t.trunc = (match i with
        | .embedBits => decide (s.crows.toNat * s.ccols.toNat < s.plen.toNat)
        | .embedText => decide (s.crows.toNat * s.ccols.toNat < 8 * s.plen.toNat)
        | _ => false) ∧
      t.wellFormedFlag = (match i with
        | .embedText => true
        | .revealText => wellformed (t.bytes .obuf t.olen.toNat)
        | _ => false) ∧
      t.err = s.err) ∧
    (t.reply ≠ some (.writeDone .okay) → t.err = true ∧ t.trunc = s.trunc ∧ t.wellFormedFlag = s.wellFormedFlag)

/-! ### The host port -/

/-- 20_memory.md R73: a read of a mapped register returns OKAY and its value; a write of a read-write register stores the
datum, returns OKAY and changes nothing else; both whatever `ERR` is. -/
def Obligations.RegisterReadsAndWrites : Prop :=
  (∀ s rest, ∀ row ∈ readTable s, s.host = .read row.1 :: rest →
    step s = .next { s.taken rest with reply := some (.readDone .okay row.2) }) ∧
  (∀ s rest data, ∀ row ∈ writeTable, s.host = .write row.1 data :: rest →
    ∃ t, step s = .next t ∧ t.reply = some (.writeDone .okay) ∧ SameHost (s.taken rest) t ∧
      t.readReg row.2 = data ∧ SameRegsBut [row.2] s t ∧ ∀ b, SameWords b s t)

/-- 20_memory.md R74: a read inside a window returns OKAY and the word; a write inside the window of CBUF, PBUF or KBUF
stores any datum, returns OKAY and changes nothing else; both whatever `ERR` is. -/
def Obligations.BufferReadsAndWrites : Prop :=
  ∀ s i rest, s.cfg.Valid → i < s.cfg.bufw → ∀ row ∈ windowTable,
    (s.host = .read (BitVec.ofNat 32 (row.1 + i)) :: rest →
      step s = .next { s.taken rest with reply := some (.readDone .okay (s.word row.2 i)) }) ∧
    (∀ data, row.2 ≠ .obuf → s.host = .write (BitVec.ofNat 32 (row.1 + i)) data :: rest →
      ∃ t, step s = .next t ∧ t.reply = some (.writeDone .okay) ∧ SameHost (s.taken rest) t ∧ SameRegsBut [] s t ∧
        t.word row.2 i = data ∧ ∀ b j, (b ≠ row.2 ∨ j ≠ i) → t.word b j = s.word b j)

/-- 20_memory.md R75: a write to a read-only register or to an OBUF word returns OKAY and changes nothing. -/
def Obligations.WritesToReadOnlyAddressesAreIgnored : Prop :=
  ∀ s data rest (addr : Word), s.cfg.Valid →
    (addr ∈ [0x00#32, 0x01#32, 0x02#32, 0x05#32, 0x06#32, 0x07#32, 0x08#32, 0x14#32, 0x1E#32, 0x1F#32, 0x20#32] ∨
      (0x400000 ≤ addr.toNat ∧ addr.toNat < 0x400000 + s.cfg.bufw)) →
    s.host = .write addr data :: rest →
    step s = .next { s.taken rest with reply := some (.writeDone .okay) }

/-- 20_memory.md R76: an unmapped address answers DECERR, a read with the datum 0, and no state changes. -/
def Obligations.UnmappedAddressesAnswerDecErr : Prop :=
  ∀ s rest (addr : Word), Unmapped s.cfg.bufw addr →
    (s.host = .read addr :: rest → step s = .next { s.taken rest with reply := some (.readDone .decErr 0) }) ∧
    (∀ data, s.host = .write addr data :: rest →
      step s = .next { s.taken rest with reply := some (.writeDone .decErr) })

/-- 70_reset_and_hazards.md R290: the reset transaction puts every register to 0 and clears a recorded fault; `ID`, `CAP`,
`BUFSZ` read as before; and only it and `CLRERR` leave the refused condition. -/
def Obligations.ResetClearsEveryRegister : Prop :=
  (∀ s rest, s.host = .reset :: rest →
    ∃ t, step s = .next t ∧ t.cfg = s.cfg ∧ t.host = rest ∧ t.err = false ∧
      (∀ r, r ∉ [Reg.id, .cap, .bufsz] → t.readReg r = 0) ∧
      (∀ r, r ∈ [Reg.id, .cap, .bufsz] → t.readReg r = s.readReg r)) ∧
  OnlyClearedByClrErrOrReset

/-! ### The document's functions -/

/-- 40_bitops.md R124, laws (a) to (d). -/
def Obligations.SetBitAndGetBitLaws : Prop :=
  ∀ (v : Word) (b : Bool) (p q : Nat), p < 32 → q < 32 →
    getBit (setBit v b p) p = b ∧ (q ≠ p → getBit (setBit v b p) q = getBit v q) ∧
    setBit v (getBit v p) p = v ∧ setBit (setBit v b p) b p = setBit v b p

/-- 40_bitops.md R125: `byteToBits` is most significant bit first, `bitsToByte` fails unless the length is 8, and the two
are inverse. -/
def Obligations.ByteToBitsIsInvertedByBitsToByte : Prop :=
  (∀ b, (byteToBits b).length = 8 ∧ ∀ i < 8, (byteToBits b)[i]? = some (b.getLsbD (7 - i))) ∧
  (∀ s : List Bool, s.length ≠ 8 → bitsToByte s = none) ∧
  (∀ s : List Bool, s.length = 8 →
    ∃ b, bitsToByte s = some b ∧ b.toNat = bitSum (fun i => (s.getD i false).toNat) ∧ byteToBits b = s) ∧
  (∀ b, bitsToByte (byteToBits b) = some b)

/-- 41_textcodec.md R141: the byte and bit groupings are inverse. -/
def Obligations.BytesAndBitsRoundTrip : Prop :=
  (∀ bs, bitsToBytes (bytesToBits bs) = bs) ∧
  (∀ s : List Bool, s.length % 8 = 0 → bytesToBits (bitsToBytes s) = s)

/-- 42_imageops.md R160: composition and extraction of channels, and that they are inverse. -/
def Obligations.ChannelsAreALosslessBijection : Prop :=
  (∀ a r g b : Byte, (composePixel a r g b).toNat = a.toNat * 2 ^ 24 + r.toNat * 2 ^ 16 + g.toNat * 2 ^ 8 + b.toNat) ∧
  (∀ p : Word, (extractChannel p .alpha).toNat = p.toNat / 2 ^ 24 ∧
    (extractChannel p .red).toNat = p.toNat / 2 ^ 16 % 256 ∧ (extractChannel p .green).toNat = p.toNat / 2 ^ 8 % 256 ∧
    (extractChannel p .blue).toNat = p.toNat % 256) ∧
  (∀ p : Word, composePixel (extractChannel p .alpha) (extractChannel p .red) (extractChannel p .green)
    (extractChannel p .blue) = p) ∧
  (∀ a r g b : Byte, extractChannel (composePixel a r g b) .alpha = a ∧ extractChannel (composePixel a r g b) .red = r ∧
    extractChannel (composePixel a r g b) .green = g ∧ extractChannel (composePixel a r g b) .blue = b)

/-- 41_textcodec.md R145, R146: a byte sequence is well-formed exactly when it is a concatenation of subsequences that match
rows; else `firstbad` is the index where, after such subsequences, no row matches. -/
def Obligations.FirstBadFindsTheFirstIllFormedSubsequence : Prop :=
  (∀ bs, wellformed bs = true ↔ ∃ chunks : List (List Byte), (∀ c ∈ chunks, MatchesUtf8Row c) ∧ bs = chunks.flatten) ∧
  (∀ bs k, TextEncoding.firstBad .utf8 bs = some k ↔
    ∃ (chunks : List (List Byte)) (rest : List Byte), (∀ c ∈ chunks, MatchesUtf8Row c) ∧ bs = chunks.flatten ++ rest ∧
      chunks.flatten.length = k ∧ rest ≠ [] ∧ ∀ n, ¬MatchesUtf8Row (rest.take n))

/-! ### U_BIT -/

/-- 40_bitops.md R122. -/
def Obligations.SetbitWritesOneBitOfA0ToRes : Prop :=
  ∀ s (pos : BitVec 8) (bit : Bool), HasEncoding (.setbit pos bit) 0x10 17 (pos.toNat + 256 * bit.toNat) ∧
    (pos.toNat ≤ 31 → ∃ v : Word, YieldsScalar (.setbit pos bit) s v ∧
      ∀ q < 32, v.getLsbD q = if q = pos.toNat then bit else s.a0.getLsbD q) ∧
    (31 < pos.toNat → Raises (.setbit pos bit) s .pos (BitVec.ofNat 32 pos.toNat))

/-- 40_bitops.md R123. -/
def Obligations.GetbitReadsOneBitOfA0 : Prop :=
  ∀ s (pos : BitVec 8), HasEncoding (.getbit pos) 0x11 16 pos.toNat ∧
    (pos.toNat ≤ 31 → YieldsScalar (.getbit pos) s (if s.a0.getLsbD pos.toNat then 1#32 else 0#32)) ∧
    (31 < pos.toNat → Raises (.getbit pos) s .pos (BitVec.ofNat 32 pos.toNat))

/-- 40_bitops.md R126. -/
def Obligations.B2bitsExpandsTheByteInA0 : Prop :=
  ∀ s, HasEncoding .b2bits 0x12 8 0 ∧
    (s.a0.toNat ≤ 255 → YieldsSequence .b2bits s 8 fun i => if s.a0.getLsbD (7 - i) then 1#32 else 0#32) ∧
    (255 < s.a0.toNat → Raises .b2bits s .elem 0#32)

/-- 40_bitops.md R127. -/
def Obligations.Bits2bPacksEightBitsIntoRes : Prop :=
  ∀ s, HasEncoding .bits2b 0x13 8 0 ∧
    (s.plen.toNat ≠ 8 → Raises .bits2b s .len s.plen) ∧
    (s.plen.toNat = 8 → ∀ i, FirstAbove s .pbuf 8 1 i → Raises .bits2b s .elem (BitVec.ofNat 32 i)) ∧
    (s.plen.toNat = 8 → AllAtMost s .pbuf 8 1 →
      YieldsScalar .bits2b s (BitVec.ofNat 32 (bitSum fun i => (s.word .pbuf i).toNat)))

/-! ### U_PACK -/

/-- 41_textcodec.md R142. -/
def Obligations.UnpackWritesTheBitsOfEveryByte : Prop :=
  ∀ s, s.cfg.Valid → HasEncoding .unpack 0x20 8 0 ∧
    (s.cfg.bufw < 8 * s.plen.toNat → Raises .unpack s .size 0#32) ∧
    (8 * s.plen.toNat ≤ s.cfg.bufw → ∀ j, FirstAbove s .pbuf s.plen.toNat 255 j →
      Raises .unpack s .elem (BitVec.ofNat 32 j)) ∧
    (8 * s.plen.toNat ≤ s.cfg.bufw → AllAtMost s .pbuf s.plen.toNat 255 →
      YieldsSequence .unpack s (8 * s.plen.toNat) fun k =>
        if (s.word .pbuf (k / 8)).getLsbD (7 - k % 8) then 1#32 else 0#32)

/-- 41_textcodec.md R143. -/
def Obligations.PackWritesOneByteForEightBits : Prop :=
  ∀ s, s.cfg.Valid → HasEncoding .pack 0x21 8 0 ∧
    (s.cfg.bufw < s.plen.toNat → Raises .pack s .size 0#32) ∧
    (s.plen.toNat ≤ s.cfg.bufw → s.plen.toNat % 8 ≠ 0 → Raises .pack s .len s.plen) ∧
    (s.plen.toNat ≤ s.cfg.bufw → s.plen.toNat % 8 = 0 → ∀ k, FirstAbove s .pbuf s.plen.toNat 1 k →
      Raises .pack s .elem (BitVec.ofNat 32 k)) ∧
    (s.plen.toNat ≤ s.cfg.bufw → s.plen.toNat % 8 = 0 → AllAtMost s .pbuf s.plen.toNat 1 →
      YieldsSequence .pack s (s.plen.toNat / 8) fun j =>
        BitVec.ofNat 32 (bitSum fun i => (s.word .pbuf (8 * j + i)).toNat))

/-! ### U_IMG -/

/-- 42_imageops.md R164. -/
def Obligations.ComposePutsFourChannelsIntoRes : Prop :=
  ∀ s, HasEncoding .compose 0x30 8 0 ∧
    (255 < s.a0.toNat → Raises .compose s .range 0#32) ∧
    (s.a0.toNat ≤ 255 → 255 < s.a1.toNat → Raises .compose s .range 1#32) ∧
    (s.a0.toNat ≤ 255 → s.a1.toNat ≤ 255 → 255 < s.a2.toNat → Raises .compose s .range 2#32) ∧
    (s.a0.toNat ≤ 255 → s.a1.toNat ≤ 255 → s.a2.toNat ≤ 255 → 255 < s.a3.toNat → Raises .compose s .range 3#32) ∧
    (s.a0.toNat ≤ 255 → s.a1.toNat ≤ 255 → s.a2.toNat ≤ 255 → s.a3.toNat ≤ 255 →
      YieldsScalar .compose s ((s.a0 <<< 24) ||| (s.a1 <<< 16) ||| (s.a2 <<< 8) ||| s.a3))

/-- 42_imageops.md R165. -/
def Obligations.ExtractTakesOneChannelOfA0 : Prop :=
  ∀ s, HasEncoding (.extract .alpha) 0x31 10 0 ∧ HasEncoding (.extract .red) 0x31 10 1 ∧
    HasEncoding (.extract .green) 0x31 10 2 ∧ HasEncoding (.extract .blue) 0x31 10 3 ∧
    YieldsScalar (.extract .alpha) s (BitVec.ofNat 32 (s.a0.toNat / 2 ^ 24)) ∧
    YieldsScalar (.extract .red) s (BitVec.ofNat 32 (s.a0.toNat / 2 ^ 16 % 256)) ∧
    YieldsScalar (.extract .green) s (BitVec.ofNat 32 (s.a0.toNat / 2 ^ 8 % 256)) ∧
    YieldsScalar (.extract .blue) s (BitVec.ofNat 32 (s.a0.toNat % 256))

/-- The grey value of 42_imageops.md R161, written out on the bits of the pixel. -/
def Sys2Proof.Machine.greyOf (p : Word) : Nat :=
  (p.toNat / 2 ^ 16 % 256 + p.toNat / 2 ^ 8 % 256 + p.toNat % 256) / 3

/-- 42_imageops.md R166 with R161. -/
def Obligations.GrayAveragesTheColourChannelsOfA0 : Prop :=
  ∀ s, HasEncoding .gray 0x32 8 0 ∧ YieldsScalar .gray s (BitVec.ofNat 32 (greyOf s.a0))

/-- 42_imageops.md R167. -/
def Obligations.BinzComparesA0WithTheThreshold : Prop :=
  ∀ s (thr : BitVec 16), HasEncoding (.binz thr) 0x33 24 thr.toNat ∧
    (255 < s.a0.toNat → Raises (.binz thr) s .range 0#32) ∧
    (s.a0.toNat ≤ 255 → YieldsScalar (.binz thr) s (if thr.toNat ≤ s.a0.toNat then 1#32 else 0#32))

/-- 42_imageops.md R170. -/
def Obligations.Img2grayAveragesEveryPixel : Prop :=
  ∀ s, s.cfg.Valid → HasEncoding .img2gray 0x34 8 0 ∧
    (s.cfg.bufw < s.pn → Raises .img2gray s .size 0#32) ∧
    (s.pn = 0 → YieldsImage .img2gray s 0 0 fun _ _ => 0) ∧
    (s.pn ≤ s.cfg.bufw → s.pn ≠ 0 → YieldsImage .img2gray s s.prows s.pcols fun r c =>
      BitVec.ofNat 32 (greyOf (s.word .pbuf (r * s.pcols.toNat + c))))

/-- 42_imageops.md R171. -/
def Obligations.Img2binComparesEveryGreyWithTheThreshold : Prop :=
  ∀ s (thr : BitVec 16), s.cfg.Valid → HasEncoding (.img2bin thr) 0x35 24 thr.toNat ∧
    (s.cfg.bufw < s.pn → Raises (.img2bin thr) s .size 0#32) ∧
    (s.pn = 0 → YieldsImage (.img2bin thr) s 0 0 fun _ _ => 0) ∧
    (s.pn ≤ s.cfg.bufw → s.pn ≠ 0 → ∀ k, FirstAbove s .pbuf s.pn 255 k →
      Raises (.img2bin thr) s .range (BitVec.ofNat 32 k)) ∧
    (s.pn ≤ s.cfg.bufw → s.pn ≠ 0 → AllAtMost s .pbuf s.pn 255 →
      YieldsImage (.img2bin thr) s s.prows s.pcols fun r c =>
        if thr.toNat ≤ (s.word .pbuf (r * s.pcols.toNat + c)).toNat then 1#32 else 0#32)

/-- 42_imageops.md R172. -/
def Obligations.Gray2imgMakesNeutralOpaquePixels : Prop :=
  ∀ s, s.cfg.Valid → HasEncoding .gray2img 0x36 8 0 ∧
    (s.cfg.bufw < s.pn → Raises .gray2img s .size 0#32) ∧
    (s.pn = 0 → YieldsImage .gray2img s 0 0 fun _ _ => 0) ∧
    (s.pn ≤ s.cfg.bufw → s.pn ≠ 0 → ∀ k, FirstAbove s .pbuf s.pn 255 k →
      Raises .gray2img s .range (BitVec.ofNat 32 k)) ∧
    (s.pn ≤ s.cfg.bufw → s.pn ≠ 0 → AllAtMost s .pbuf s.pn 255 →
      YieldsImage .gray2img s s.prows s.pcols fun r c =>
        0xFF000000#32 ||| (s.word .pbuf (r * s.pcols.toNat + c) <<< 16) |||
          (s.word .pbuf (r * s.pcols.toNat + c) <<< 8) ||| s.word .pbuf (r * s.pcols.toNat + c))

/-- 42_imageops.md R173. The pixel of a false cell, opaque black, is general knowledge in the spec (log 11). -/
def Obligations.Bin2imgMakesWhiteAndBlackPixels : Prop :=
  ∀ s, s.cfg.Valid → HasEncoding .bin2img 0x37 8 0 ∧
    (s.cfg.bufw < s.pn → Raises .bin2img s .size 0#32) ∧
    (s.pn = 0 → YieldsImage .bin2img s 0 0 fun _ _ => 0) ∧
    (s.pn ≤ s.cfg.bufw → s.pn ≠ 0 → ∀ k, FirstAbove s .pbuf s.pn 1 k →
      Raises .bin2img s .elem (BitVec.ofNat 32 k)) ∧
    (s.pn ≤ s.cfg.bufw → s.pn ≠ 0 → AllAtMost s .pbuf s.pn 1 →
      YieldsImage .bin2img s s.prows s.pcols fun r c =>
        if s.word .pbuf (r * s.pcols.toNat + c) = 1#32 then 0xFFFFFFFF#32 else 0xFF000000#32)

/-! ### U_STEG -/

/-- 43_steganography.md R194. -/
def Obligations.EmbedBitsSetsTheLowBitsOfTheCover : Prop :=
  ∀ s, s.cfg.Valid → HasEncoding .embedBits 0x40 8 0 ∧
    (s.cfg.bufw < s.cap → Raises .embedBits s .size 0#32) ∧
    (s.cap ≤ s.cfg.bufw → s.cfg.bufw < s.plen.toNat → Raises .embedBits s .size 0#32) ∧
    (s.cap = 0 → s.plen.toNat ≤ s.cfg.bufw → Raises .embedBits s .empty 0#32) ∧
    (s.cap ≤ s.cfg.bufw → s.plen.toNat ≤ s.cfg.bufw → s.cap ≠ 0 → ∀ k, FirstAbove s .pbuf s.plen.toNat 1 k →
      Raises .embedBits s .elem (BitVec.ofNat 32 k)) ∧
    (s.cap ≤ s.cfg.bufw → s.plen.toNat ≤ s.cfg.bufw → s.cap ≠ 0 → AllAtMost s .pbuf s.plen.toNat 1 →
      ∃ t, exec .embedBits s = .next t ∧
        OutputFrame s t s.crows s.ccols s.cap { trunc := decide (s.cap < s.plen.toNat) } ∧
        ∀ k < s.cap, t.word .obuf k =
          if k < s.plen.toNat then (s.word .cbuf k &&& 0xFFFFFFFE#32) ||| s.word .pbuf k else s.word .cbuf k)

/-- 43_steganography.md R195. -/
def Obligations.RevealBitsReadsTheLowBitOfEveryCell : Prop :=
  ∀ s, s.cfg.Valid → HasEncoding .revealBits 0x41 8 0 ∧
    (s.cfg.bufw < s.cap → Raises .revealBits s .size 0#32) ∧
    (s.cap ≤ s.cfg.bufw → YieldsSequence .revealBits s s.cap fun k =>
      if (s.word .cbuf k).getLsbD 0 then 1#32 else 0#32)

/-- 43_steganography.md R196. -/
def Obligations.EmbedBinWritesTheBoxOfTheCover : Prop :=
  ∀ s, s.cfg.Valid → HasEncoding .embedBin 0x42 8 0 ∧
    (s.cfg.bufw < s.cap → Raises .embedBin s .size 0#32) ∧
    (s.cap ≤ s.cfg.bufw → s.cfg.bufw < s.pn → Raises .embedBin s .size 0#32) ∧
    (s.cap ≤ s.cfg.bufw → s.pn ≤ s.cfg.bufw →
      ¬(s.prows.toNat ≤ s.crows.toNat ∧ s.pcols.toNat ≤ s.ccols.toNat) → Raises .embedBin s .dim 0#32) ∧
    (s.cap ≤ s.cfg.bufw → s.prows.toNat ≤ s.crows.toNat → s.pcols.toNat ≤ s.ccols.toNat →
      ∀ k, FirstAbove s .pbuf s.pn 1 k → Raises .embedBin s .elem (BitVec.ofNat 32 k)) ∧
    (s.cap ≤ s.cfg.bufw → s.prows.toNat ≤ s.crows.toNat → s.pcols.toNat ≤ s.ccols.toNat → AllAtMost s .pbuf s.pn 1 →
      YieldsImage .embedBin s s.crows s.ccols fun r c =>
        if r < s.prows.toNat ∧ c < s.pcols.toNat then
          (s.word .cbuf (r * s.ccols.toNat + c) &&& 0xFFFFFFFE#32) ||| s.word .pbuf (r * s.pcols.toNat + c)
        else s.word .cbuf (r * s.ccols.toNat + c))

/-- 43_steganography.md R197. -/
def Obligations.RevealBinReadsTheLowBitPlaneOfASquare : Prop :=
  ∀ s, s.cfg.Valid → HasEncoding .revealBin 0x43 8 0 ∧
    (s.cfg.bufw < s.cap → Raises .revealBin s .size 0#32) ∧
    (s.cap ≤ s.cfg.bufw → s.crows ≠ s.ccols → Raises .revealBin s .square 0#32) ∧
    (s.cap ≤ s.cfg.bufw → s.crows = s.ccols → YieldsImage .revealBin s s.crows s.ccols fun r c =>
      if (s.word .cbuf (r * s.ccols.toNat + c)).getLsbD 0 then 1#32 else 0#32)

/-- 43_steganography.md R198. -/
def Obligations.EmbedGrayWritesTheBoxByThreshold : Prop :=
  ∀ s (thr : BitVec 16), s.cfg.Valid → HasEncoding (.embedGray thr) 0x44 24 thr.toNat ∧
    (s.cfg.bufw < s.cap → Raises (.embedGray thr) s .size 0#32) ∧
    (s.cap ≤ s.cfg.bufw → s.cfg.bufw < s.pn → Raises (.embedGray thr) s .size 0#32) ∧
    (s.cap ≤ s.cfg.bufw → s.pn ≤ s.cfg.bufw → s.pn ≠ 0 →
      ¬(s.prows.toNat ≤ s.crows.toNat ∧ s.pcols.toNat ≤ s.ccols.toNat) → Raises (.embedGray thr) s .dim 0#32) ∧
    (s.cap ≤ s.cfg.bufw → s.prows.toNat ≤ s.crows.toNat → s.pcols.toNat ≤ s.ccols.toNat →
      ∀ k, FirstAbove s .pbuf s.pn 255 k → Raises (.embedGray thr) s .range (BitVec.ofNat 32 k)) ∧
    (s.cap ≤ s.cfg.bufw → s.pn = 0 → YieldsImage (.embedGray thr) s s.crows s.ccols fun r c =>
      s.word .cbuf (r * s.ccols.toNat + c)) ∧
    (s.cap ≤ s.cfg.bufw → s.pn ≠ 0 → s.prows.toNat ≤ s.crows.toNat → s.pcols.toNat ≤ s.ccols.toNat →
      AllAtMost s .pbuf s.pn 255 →
      YieldsImage (.embedGray thr) s s.crows s.ccols fun r c =>
        if r < s.prows.toNat ∧ c < s.pcols.toNat then
          (s.word .cbuf (r * s.ccols.toNat + c) &&& 0xFFFFFFFE#32) |||
            (if thr.toNat ≤ (s.word .pbuf (r * s.pcols.toNat + c)).toNat then 1#32 else 0#32)
        else s.word .cbuf (r * s.ccols.toNat + c))

/-- 43_steganography.md R199. -/
def Obligations.EmbedColorWritesTheBoxByGreyThreshold : Prop :=
  ∀ s (thr : BitVec 16), s.cfg.Valid → HasEncoding (.embedColor thr) 0x45 24 thr.toNat ∧
    (s.cfg.bufw < s.cap → Raises (.embedColor thr) s .size 0#32) ∧
    (s.cap ≤ s.cfg.bufw → s.cfg.bufw < s.pn → Raises (.embedColor thr) s .size 0#32) ∧
    (s.cap ≤ s.cfg.bufw → s.pn ≤ s.cfg.bufw → s.pn ≠ 0 →
      ¬(s.prows.toNat ≤ s.crows.toNat ∧ s.pcols.toNat ≤ s.ccols.toNat) → Raises (.embedColor thr) s .dim 0#32) ∧
    (s.cap ≤ s.cfg.bufw → s.pn = 0 → YieldsImage (.embedColor thr) s s.crows s.ccols fun r c =>
      s.word .cbuf (r * s.ccols.toNat + c)) ∧
    (s.cap ≤ s.cfg.bufw → s.pn ≠ 0 → s.prows.toNat ≤ s.crows.toNat → s.pcols.toNat ≤ s.ccols.toNat →
      YieldsImage (.embedColor thr) s s.crows s.ccols fun r c =>
        if r < s.prows.toNat ∧ c < s.pcols.toNat then
          (s.word .cbuf (r * s.ccols.toNat + c) &&& 0xFFFFFFFE#32) |||
            (if thr.toNat ≤ greyOf (s.word .pbuf (r * s.pcols.toNat + c)) then 1#32 else 0#32)
        else s.word .cbuf (r * s.ccols.toNat + c))

/-- 43_steganography.md R200. Which messages are well-formed is not said here (log 10). -/
def Obligations.EmbedTextEmbedsTheBitsOfAWellFormedMessage : Prop :=
  ∀ s, s.cfg.Valid → HasEncoding .embedText 0x46 8 0 ∧
    (s.cfg.bufw < s.cap → Raises .embedText s .size 0#32) ∧
    (s.cap ≤ s.cfg.bufw → s.cfg.bufw < s.plen.toNat → Raises .embedText s .size 0#32) ∧
    (s.cap = 0 → s.plen.toNat ≤ s.cfg.bufw → Raises .embedText s .empty 0#32) ∧
    (s.cap ≤ s.cfg.bufw → s.plen.toNat ≤ s.cfg.bufw → s.cap ≠ 0 → ∀ j, FirstAbove s .pbuf s.plen.toNat 255 j →
      Raises .embedText s .elem (BitVec.ofNat 32 j)) ∧
    (s.cap ≤ s.cfg.bufw → s.plen.toNat ≤ s.cfg.bufw → s.cap ≠ 0 → AllAtMost s .pbuf s.plen.toNat 255 →
      ∀ k, TextEncoding.firstBad .utf8 (s.bytes .pbuf s.plen.toNat) = some k →
        Raises .embedText s .text (BitVec.ofNat 32 k)) ∧
    (s.cap ≤ s.cfg.bufw → s.plen.toNat ≤ s.cfg.bufw → s.cap ≠ 0 → AllAtMost s .pbuf s.plen.toNat 255 →
      wellformed (s.bytes .pbuf s.plen.toNat) = true →
      ∃ t, exec .embedText s = .next t ∧
        OutputFrame s t s.crows s.ccols s.cap { trunc := decide (s.cap < 8 * s.plen.toNat), wf := true } ∧
        ∀ k < s.cap, t.word .obuf k =
          if k < 8 * s.plen.toNat then
            (s.word .cbuf k &&& 0xFFFFFFFE#32) |||
              (if (s.word .pbuf (k / 8)).getLsbD (7 - k % 8) then 1#32 else 0#32)
          else s.word .cbuf k)

/-- 43_steganography.md R201. Which bytes are well-formed is not said here (log 10). -/
def Obligations.RevealTextGroupsTheLowBitsIntoBytes : Prop :=
  ∀ s, s.cfg.Valid → HasEncoding .revealText 0x47 8 0 ∧
    (s.cfg.bufw < s.cap → Raises .revealText s .size 0#32) ∧
    (s.cap ≤ s.cfg.bufw → ∃ t, exec .revealText s = .next t ∧
      OutputFrame s t 0 0 (s.cap / 8) { wf := wellformed (t.bytes .obuf (s.cap / 8)) } ∧
      ∀ j < s.cap / 8, t.word .obuf j =
        BitVec.ofNat 32 (bitSum fun i => if (s.word .cbuf (8 * j + i)).getLsbD 0 then 1 else 0))

/-! ### U_CIPH -/

/-- 44_cipher.md R222, R223, with the common checks of R221. -/
def Obligations.CaesarAddsAndSubtractsTheKey : Prop :=
  ∀ s (key : BitVec 8), s.cfg.Valid →
    HasEncoding (.caesarEnc key) 0x50 16 key.toNat ∧ HasEncoding (.caesarDec key) 0x51 16 key.toNat ∧
    (∀ i ∈ [Instr.caesarEnc key, .caesarDec key],
      (s.cfg.hasCipher = true → s.cfg.bufw < s.plen.toNat → Raises i s .size 0#32) ∧
      (s.cfg.hasCipher = true → s.plen.toNat ≤ s.cfg.bufw → ∀ j, FirstAbove s .pbuf s.plen.toNat 255 j →
        Raises i s .elem (BitVec.ofNat 32 j))) ∧
    (LegalData s →
      YieldsSequence (.caesarEnc key) s s.plen.toNat
        (fun k => BitVec.ofNat 32 (((s.word .pbuf k).toNat + key.toNat) % 256)) ∧
      YieldsSequence (.caesarDec key) s s.plen.toNat
        (fun k => BitVec.ofNat 32 (((s.word .pbuf k).toNat + 256 - key.toNat) % 256)))

/-- 44_cipher.md R224, with the common checks of R221. -/
def Obligations.VigEncAddsTheCyclingKey : Prop :=
  ∀ s, s.cfg.Valid → HasEncoding .vigEnc 0x52 8 0 ∧
    (s.cfg.hasCipher = true → s.cfg.bufw < s.plen.toNat → Raises .vigEnc s .size 0#32) ∧
    (s.cfg.hasCipher = true → s.plen.toNat ≤ s.cfg.bufw → s.cfg.bufw < s.klen.toNat → Raises .vigEnc s .size 0#32) ∧
    (s.cfg.hasCipher = true → s.plen.toNat ≤ s.cfg.bufw → s.klen.toNat = 0 → Raises .vigEnc s .keyEmpty 0#32) ∧
    (s.cfg.hasCipher = true → s.plen.toNat ≤ s.cfg.bufw → s.klen.toNat ≤ s.cfg.bufw → s.klen.toNat ≠ 0 →
      ∀ j, FirstAbove s .pbuf s.plen.toNat 255 j → Raises .vigEnc s .elem (BitVec.ofNat 32 j)) ∧
    (LegalData s → s.klen.toNat ≤ s.cfg.bufw → ∀ j, FirstAbove s .kbuf s.klen.toNat 255 j →
      Raises .vigEnc s .elem (0x80000000#32 ||| BitVec.ofNat 32 j)) ∧
    (LegalData s → LegalKey s → s.klen.toNat ≠ 0 → YieldsSequence .vigEnc s s.plen.toNat fun k =>
      BitVec.ofNat 32 (((s.word .pbuf k).toNat + (s.word .kbuf (k % s.klen.toNat)).toNat) % 256))

/-- 44_cipher.md R225, with the common checks of R221. The decrypt formula is the spec's own inference from R223 and R224. -/
def Obligations.VigDecSubtractsTheCyclingKey : Prop :=
  ∀ s, s.cfg.Valid → HasEncoding .vigDec 0x53 8 0 ∧
    (s.cfg.hasCipher = true → s.cfg.bufw < s.plen.toNat → Raises .vigDec s .size 0#32) ∧
    (s.cfg.hasCipher = true → s.plen.toNat ≤ s.cfg.bufw → s.cfg.bufw < s.klen.toNat → Raises .vigDec s .size 0#32) ∧
    (s.cfg.hasCipher = true → s.plen.toNat ≤ s.cfg.bufw → s.klen.toNat = 0 → Raises .vigDec s .keyEmpty 0#32) ∧
    (s.cfg.hasCipher = true → s.plen.toNat ≤ s.cfg.bufw → s.klen.toNat ≤ s.cfg.bufw → s.klen.toNat ≠ 0 →
      ∀ j, FirstAbove s .pbuf s.plen.toNat 255 j → Raises .vigDec s .elem (BitVec.ofNat 32 j)) ∧
    (LegalData s → s.klen.toNat ≤ s.cfg.bufw → ∀ j, FirstAbove s .kbuf s.klen.toNat 255 j →
      Raises .vigDec s .elem (0x80000000#32 ||| BitVec.ofNat 32 j)) ∧
    (LegalData s → LegalKey s → s.klen.toNat ≠ 0 → YieldsSequence .vigDec s s.plen.toNat fun k =>
      BitVec.ofNat 32 (((s.word .pbuf k).toNat + 256 - (s.word .kbuf (k % s.klen.toNat)).toNat) % 256))

/-- 44_cipher.md R226, with the common checks of R221. -/
def Obligations.XorkXorsEveryByteWithTheKey : Prop :=
  ∀ s (key : BitVec 8), s.cfg.Valid → HasEncoding (.xork key) 0x54 16 key.toNat ∧
    (s.cfg.hasCipher = true → s.cfg.bufw < s.plen.toNat → Raises (.xork key) s .size 0#32) ∧
    (s.cfg.hasCipher = true → s.plen.toNat ≤ s.cfg.bufw → ∀ j, FirstAbove s .pbuf s.plen.toNat 255 j →
      Raises (.xork key) s .elem (BitVec.ofNat 32 j)) ∧
    (LegalData s → YieldsSequence (.xork key) s s.plen.toNat fun k => s.word .pbuf k ^^^ BitVec.ofNat 32 key.toNat)

/-- 44_cipher.md R227. -/
def Obligations.OtpXorsTheDataWithThePad : Prop :=
  ∀ s, s.cfg.Valid → HasEncoding .otp 0x55 8 0 ∧
    (s.cfg.hasCipher = true → s.cfg.bufw < s.plen.toNat → Raises .otp s .size 0#32) ∧
    (s.cfg.hasCipher = true → s.plen.toNat = 0 → YieldsSequence .otp s 0 fun _ => 0) ∧
    (s.cfg.hasCipher = true → s.plen.toNat ≤ s.cfg.bufw → s.plen.toNat ≠ 0 → s.klen.toNat ≠ s.plen.toNat →
      Raises .otp s .padLen s.klen) ∧
    (s.cfg.hasCipher = true → s.plen.toNat ≤ s.cfg.bufw → s.plen.toNat ≠ 0 → s.klen.toNat = s.plen.toNat →
      ∀ j, FirstAbove s .pbuf s.plen.toNat 255 j → Raises .otp s .elem (BitVec.ofNat 32 j)) ∧
    (LegalData s → s.plen.toNat ≠ 0 → s.klen.toNat = s.plen.toNat → ∀ j, FirstAbove s .kbuf s.klen.toNat 255 j →
      Raises .otp s .elem (0x80000000#32 ||| BitVec.ofNat 32 j)) ∧
    (LegalData s → s.plen.toNat ≠ 0 → s.klen.toNat = s.plen.toNat → LegalKey s →
      YieldsSequence .otp s s.plen.toNat fun k => s.word .pbuf k ^^^ s.word .kbuf k)

/-- 44_cipher.md R228, with the common checks of R221. The byte formula is the spec's own reading of its block
description. -/
def Obligations.CbcEncChainsEveryBlockWithTheOneBefore : Prop :=
  ∀ s, s.cfg.Valid → HasEncoding .cbcEnc 0x56 8 0 ∧
    (s.cfg.hasCipher = true → s.cfg.bufw < s.plen.toNat → Raises .cbcEnc s .size 0#32) ∧
    (s.cfg.hasCipher = true → s.plen.toNat ≤ s.cfg.bufw → s.cfg.bufw < s.klen.toNat → Raises .cbcEnc s .size 0#32) ∧
    (s.cfg.hasCipher = true → s.plen.toNat ≤ s.cfg.bufw → s.klen.toNat = 0 → Raises .cbcEnc s .keyEmpty 0#32) ∧
    (s.cfg.hasCipher = true → s.plen.toNat ≤ s.cfg.bufw → s.klen.toNat ≤ s.cfg.bufw → s.klen.toNat ≠ 0 →
      ∀ j, FirstAbove s .pbuf s.plen.toNat 255 j → Raises .cbcEnc s .elem (BitVec.ofNat 32 j)) ∧
    (LegalData s → s.klen.toNat ≤ s.cfg.bufw → ∀ j, FirstAbove s .kbuf s.klen.toNat 255 j →
      Raises .cbcEnc s .elem (0x80000000#32 ||| BitVec.ofNat 32 j)) ∧
    (LegalData s → LegalKey s → s.klen.toNat ≠ 0 → ∃ t, exec .cbcEnc s = .next t ∧
      OutputFrame s t 0 0 s.plen.toNat {} ∧
      ∀ k < s.plen.toNat, t.word .obuf k = s.word .pbuf k ^^^
        (if k < s.klen.toNat then s.word .kbuf k else t.word .obuf (k - s.klen.toNat)))

/-- 44_cipher.md R229, with the common checks of R221. -/
def Obligations.CbcDecXorsEveryBlockWithTheCipherBefore : Prop :=
  ∀ s, s.cfg.Valid → HasEncoding .cbcDec 0x57 8 0 ∧
    (s.cfg.hasCipher = true → s.cfg.bufw < s.plen.toNat → Raises .cbcDec s .size 0#32) ∧
    (s.cfg.hasCipher = true → s.plen.toNat ≤ s.cfg.bufw → s.cfg.bufw < s.klen.toNat → Raises .cbcDec s .size 0#32) ∧
    (s.cfg.hasCipher = true → s.plen.toNat ≤ s.cfg.bufw → s.klen.toNat = 0 → Raises .cbcDec s .keyEmpty 0#32) ∧
    (s.cfg.hasCipher = true → s.plen.toNat ≤ s.cfg.bufw → s.klen.toNat ≤ s.cfg.bufw → s.klen.toNat ≠ 0 →
      s.plen.toNat % s.klen.toNat ≠ 0 → Raises .cbcDec s .block s.plen) ∧
    (s.cfg.hasCipher = true → s.plen.toNat ≤ s.cfg.bufw → s.klen.toNat ≤ s.cfg.bufw → s.klen.toNat ≠ 0 →
      s.plen.toNat % s.klen.toNat = 0 → ∀ j, FirstAbove s .pbuf s.plen.toNat 255 j →
        Raises .cbcDec s .elem (BitVec.ofNat 32 j)) ∧
    (LegalData s → s.klen.toNat ≤ s.cfg.bufw → s.plen.toNat % s.klen.toNat = 0 →
      ∀ j, FirstAbove s .kbuf s.klen.toNat 255 j → Raises .cbcDec s .elem (0x80000000#32 ||| BitVec.ofNat 32 j)) ∧
    (LegalData s → LegalKey s → s.klen.toNat ≠ 0 → s.plen.toNat % s.klen.toNat = 0 →
      YieldsSequence .cbcDec s s.plen.toNat fun k => s.word .pbuf k ^^^
        (if k < s.klen.toNat then s.word .kbuf k else s.word .pbuf (k - s.klen.toNat)))

/-! ### U_MOVE -/

/-- 45_move_control.md R250. -/
def Obligations.MoveCopiesTheOutputAndItsDescriptor : Prop :=
  ∀ s, HasEncoding (.move .c) 0x60 10 0 ∧ HasEncoding (.move .p) 0x60 10 1 ∧ HasEncoding (.move .k) 0x60 10 2 ∧
    (∀ hc i, decode hc 0x360#32 ≠ .ok i) ∧
    (∃ t, exec (.move .c) s = .next t ∧ Completed s t {} ∧ SameRegsBut [.status, .crows, .ccols] s t ∧
      t.crows = s.orows ∧ t.ccols = s.ocols ∧ (∀ b, b ≠ .cbuf → SameWords b s t) ∧
      ∀ k, t.word .cbuf k = if k < s.olen.toNat then s.word .obuf k else s.word .cbuf k) ∧
    (∃ t, exec (.move .p) s = .next t ∧ Completed s t {} ∧ SameRegsBut [.status, .prows, .pcols, .plen] s t ∧
      t.prows = s.orows ∧ t.pcols = s.ocols ∧ t.plen = s.olen ∧ (∀ b, b ≠ .pbuf → SameWords b s t) ∧
      ∀ k, t.word .pbuf k = if k < s.olen.toNat then s.word .obuf k else s.word .pbuf k) ∧
    (∃ t, exec (.move .k) s = .next t ∧ Completed s t {} ∧ SameRegsBut [.status, .klen] s t ∧
      t.klen = s.olen ∧ (∀ b, b ≠ .kbuf → SameWords b s t) ∧
      ∀ k, t.word .kbuf k = if k < s.olen.toNat then s.word .obuf k else s.word .kbuf k)

/-! ### Laws of several commands -/

/-- 43_steganography.md R202 (a): EMBED_BITS, MOVE C, REVEAL_BITS complete and return the payload, and behind it the
cover's own bits. -/
def Obligations.EmbeddedBitsAreRevealed : Prop :=
  ∀ s, s.cfg.Valid → s.cap ≤ s.cfg.bufw → s.cap ≠ 0 → s.plen.toNat ≤ s.cap → AllAtMost s .pbuf s.plen.toNat 1 →
    ∃ t₁ t₂ t₃, exec .embedBits s = .next t₁ ∧ exec (.move .c) t₁ = .next t₂ ∧ exec .revealBits t₂ = .next t₃ ∧
      t₁.reply = some (.writeDone .okay) ∧ t₂.reply = some (.writeDone .okay) ∧ t₃.reply = some (.writeDone .okay) ∧
      t₃.olen.toNat = s.cap ∧ (∀ k < s.plen.toNat, t₃.word .obuf k = s.word .pbuf k) ∧
      ∀ k, s.plen.toNat ≤ k → k < s.cap → t₃.word .obuf k = if (s.word .cbuf k).getLsbD 0 then 1#32 else 0#32

/-- 43_steganography.md R202 (b): EMBED_BIN, MOVE C, REVEAL_BIN on a square cover complete and return the payload in its
box. -/
def Obligations.EmbeddedBinaryImageIsRevealed : Prop :=
  ∀ s, s.cfg.Valid → s.cap ≤ s.cfg.bufw → s.crows = s.ccols → s.prows.toNat ≤ s.crows.toNat →
    s.pcols.toNat ≤ s.ccols.toNat → AllAtMost s .pbuf s.pn 1 →
    ∃ t₁ t₂ t₃, exec .embedBin s = .next t₁ ∧ exec (.move .c) t₁ = .next t₂ ∧ exec .revealBin t₂ = .next t₃ ∧
      t₁.reply = some (.writeDone .okay) ∧ t₂.reply = some (.writeDone .okay) ∧ t₃.reply = some (.writeDone .okay) ∧
      ∀ r < s.prows.toNat, ∀ c < s.pcols.toNat,
        t₃.word .obuf (r * s.ccols.toNat + c) = s.word .pbuf (r * s.pcols.toNat + c)

/-- 43_steganography.md R202 (c), which the spec marks as its own inference: EMBED_TEXT, MOVE C, REVEAL_TEXT returns a
well-formed message that fits. -/
def Obligations.EmbeddedTextIsRevealed : Prop :=
  ∀ s, s.cfg.Valid → s.cap ≤ s.cfg.bufw → s.cap ≠ 0 → 8 * s.plen.toNat ≤ s.cap → AllAtMost s .pbuf s.plen.toNat 255 →
    wellformed (s.bytes .pbuf s.plen.toNat) = true →
    ∃ t₁ t₂ t₃, exec .embedText s = .next t₁ ∧ exec (.move .c) t₁ = .next t₂ ∧ exec .revealText t₂ = .next t₃ ∧
      t₁.reply = some (.writeDone .okay) ∧ t₂.reply = some (.writeDone .okay) ∧ t₃.reply = some (.writeDone .okay) ∧
      t₃.olen.toNat = s.cap / 8 ∧ ∀ k < s.plen.toNat, t₃.word .obuf k = s.word .pbuf k

/-- 43_steganography.md R203, the spec's own inference for the channels and the grey value: what every embed command
that completes preserves of every cell of the cover, of the input buffers and of the input descriptors. -/
def Obligations.EmbeddingKeepsAllButTheLowBit : Prop :=
  ∀ i s t, (i = .embedBits ∨ i = .embedBin ∨ i = .embedText ∨ (∃ thr, i = .embedGray thr) ∨ ∃ thr, i = .embedColor thr) →
    exec i s = .next t → t.reply = some (.writeDone .okay) →
    (∀ b, b ≠ .obuf → SameWords b s t) ∧ SameRegsBut [.status, .orows, .ocols, .olen] s t ∧ ∀ k < s.cap,
      (∀ j, 1 ≤ j → (t.word .obuf k).getLsbD j = (s.word .cbuf k).getLsbD j) ∧
      (t.word .obuf k).toNat / 2 = (s.word .cbuf k).toNat / 2 ∧
      (∀ ch, ch ≠ .blue → extractChannel (t.word .obuf k) ch = extractChannel (s.word .cbuf k) ch) ∧
      (extractChannel (t.word .obuf k) .blue).toNat ≤ (extractChannel (s.word .cbuf k) .blue).toNat + 1 ∧
      (extractChannel (s.word .cbuf k) .blue).toNat ≤ (extractChannel (t.word .obuf k) .blue).toNat + 1 ∧
      (grayscale (t.word .obuf k)).toNat ≤ (grayscale (s.word .cbuf k)).toNat + 1 ∧
      (grayscale (s.word .cbuf k)).toNat ≤ (grayscale (t.word .obuf k)).toNat + 1

/-- 44_cipher.md R230: each decrypt command undoes its encrypt command, with MOVE P between them; CBC_ENC after CBC_DEC is
the spec's own inference. -/
def Obligations.CiphersAreUndone : Prop :=
  ∀ s, s.cfg.Valid → LegalData s →
    (∀ key, Undoes (.caesarEnc key) (.caesarDec key) s) ∧ (∀ key, Undoes (.xork key) (.xork key) s) ∧
    (LegalKey s → s.klen.toNat ≠ 0 → Undoes .vigEnc .vigDec s) ∧
    (LegalKey s → s.klen = s.plen → Undoes .otp .otp s) ∧
    (LegalKey s → s.klen.toNat ≠ 0 → s.plen.toNat % s.klen.toNat = 0 →
      Undoes .cbcEnc .cbcDec s ∧ Undoes .cbcDec .cbcEnc s)

/-- 43_steganography.md R198, "Equivalence", which the spec marks as its own inference: EMBED_GRAY leaves in OBUF and
its descriptors what IMG2BIN, MOVE P, EMBED_BIN leave. -/
def Obligations.EmbedGrayIsConvertMoveEmbed : Prop :=
  ∀ s (thr : BitVec 16) t, s.cfg.Valid → exec (.embedGray thr) s = .next t → t.reply = some (.writeDone .okay) →
    ∃ t₁ t₂ t₃, exec (.img2bin thr) s = .next t₁ ∧ exec (.move .p) t₁ = .next t₂ ∧ exec .embedBin t₂ = .next t₃ ∧
      t₃.reply = some (.writeDone .okay) ∧ t₃.orows = t.orows ∧ t₃.ocols = t.ocols ∧ t₃.olen = t.olen ∧
      ∀ k < t.olen.toNat, t₃.word .obuf k = t.word .obuf k
end

