-- ==== Sys2Proof/Laws/State.lean ====
section
/-! SUPPORT. One lemma per field per update of the state, each true by computation, so that no proof unfolds a record
update; and what each update does to the fields it writes. -/

namespace Sys2Proof.Machine

variable (s : State)

/-! ### the contents of one buffer replaced -/

@[simp] theorem State.setMem_cfg (b : Buffer) (m : Memory) : (s.setMem b m).cfg = s.cfg := by cases b <;> rfl
@[simp] theorem State.setMem_a0 (b : Buffer) (m : Memory) : (s.setMem b m).a0 = s.a0 := by cases b <;> rfl
@[simp] theorem State.setMem_a1 (b : Buffer) (m : Memory) : (s.setMem b m).a1 = s.a1 := by cases b <;> rfl
@[simp] theorem State.setMem_a2 (b : Buffer) (m : Memory) : (s.setMem b m).a2 = s.a2 := by cases b <;> rfl
@[simp] theorem State.setMem_a3 (b : Buffer) (m : Memory) : (s.setMem b m).a3 = s.a3 := by cases b <;> rfl
@[simp] theorem State.setMem_res (b : Buffer) (m : Memory) : (s.setMem b m).res = s.res := by cases b <;> rfl
@[simp] theorem State.setMem_crows (b : Buffer) (m : Memory) : (s.setMem b m).crows = s.crows := by cases b <;> rfl
@[simp] theorem State.setMem_ccols (b : Buffer) (m : Memory) : (s.setMem b m).ccols = s.ccols := by cases b <;> rfl
@[simp] theorem State.setMem_prows (b : Buffer) (m : Memory) : (s.setMem b m).prows = s.prows := by cases b <;> rfl
@[simp] theorem State.setMem_pcols (b : Buffer) (m : Memory) : (s.setMem b m).pcols = s.pcols := by cases b <;> rfl
@[simp] theorem State.setMem_plen (b : Buffer) (m : Memory) : (s.setMem b m).plen = s.plen := by cases b <;> rfl
@[simp] theorem State.setMem_klen (b : Buffer) (m : Memory) : (s.setMem b m).klen = s.klen := by cases b <;> rfl
@[simp] theorem State.setMem_orows (b : Buffer) (m : Memory) : (s.setMem b m).orows = s.orows := by cases b <;> rfl
@[simp] theorem State.setMem_ocols (b : Buffer) (m : Memory) : (s.setMem b m).ocols = s.ocols := by cases b <;> rfl
@[simp] theorem State.setMem_olen (b : Buffer) (m : Memory) : (s.setMem b m).olen = s.olen := by cases b <;> rfl
@[simp] theorem State.setMem_status (b : Buffer) (m : Memory) : (s.setMem b m).status = s.status := by cases b <;> rfl
@[simp] theorem State.setMem_errcode (b : Buffer) (m : Memory) : (s.setMem b m).errcode = s.errcode := by cases b <;> rfl
@[simp] theorem State.setMem_errcmd (b : Buffer) (m : Memory) : (s.setMem b m).errcmd = s.errcmd := by cases b <;> rfl
@[simp] theorem State.setMem_errinfo (b : Buffer) (m : Memory) : (s.setMem b m).errinfo = s.errinfo := by cases b <;> rfl
@[simp] theorem State.setMem_resets (b : Buffer) (m : Memory) : (s.setMem b m).resets = s.resets := by cases b <;> rfl
@[simp] theorem State.setMem_host (b : Buffer) (m : Memory) : (s.setMem b m).host = s.host := by cases b <;> rfl
@[simp] theorem State.setMem_reply (b : Buffer) (m : Memory) : (s.setMem b m).reply = s.reply := by cases b <;> rfl

/-! ### STATUS.ERR written -/

@[simp] theorem State.setErr_cfg (b : Bool) : (s.setErr b).cfg = s.cfg := rfl
@[simp] theorem State.setErr_a0 (b : Bool) : (s.setErr b).a0 = s.a0 := rfl
@[simp] theorem State.setErr_a1 (b : Bool) : (s.setErr b).a1 = s.a1 := rfl
@[simp] theorem State.setErr_a2 (b : Bool) : (s.setErr b).a2 = s.a2 := rfl
@[simp] theorem State.setErr_a3 (b : Bool) : (s.setErr b).a3 = s.a3 := rfl
@[simp] theorem State.setErr_res (b : Bool) : (s.setErr b).res = s.res := rfl
@[simp] theorem State.setErr_crows (b : Bool) : (s.setErr b).crows = s.crows := rfl
@[simp] theorem State.setErr_ccols (b : Bool) : (s.setErr b).ccols = s.ccols := rfl
@[simp] theorem State.setErr_prows (b : Bool) : (s.setErr b).prows = s.prows := rfl
@[simp] theorem State.setErr_pcols (b : Bool) : (s.setErr b).pcols = s.pcols := rfl
@[simp] theorem State.setErr_plen (b : Bool) : (s.setErr b).plen = s.plen := rfl
@[simp] theorem State.setErr_klen (b : Bool) : (s.setErr b).klen = s.klen := rfl
@[simp] theorem State.setErr_orows (b : Bool) : (s.setErr b).orows = s.orows := rfl
@[simp] theorem State.setErr_ocols (b : Bool) : (s.setErr b).ocols = s.ocols := rfl
@[simp] theorem State.setErr_olen (b : Bool) : (s.setErr b).olen = s.olen := rfl
@[simp] theorem State.setErr_errcode (b : Bool) : (s.setErr b).errcode = s.errcode := rfl
@[simp] theorem State.setErr_errcmd (b : Bool) : (s.setErr b).errcmd = s.errcmd := rfl
@[simp] theorem State.setErr_errinfo (b : Bool) : (s.setErr b).errinfo = s.errinfo := rfl
@[simp] theorem State.setErr_cbuf (b : Bool) : (s.setErr b).cbuf = s.cbuf := rfl
@[simp] theorem State.setErr_pbuf (b : Bool) : (s.setErr b).pbuf = s.pbuf := rfl
@[simp] theorem State.setErr_kbuf (b : Bool) : (s.setErr b).kbuf = s.kbuf := rfl
@[simp] theorem State.setErr_obuf (b : Bool) : (s.setErr b).obuf = s.obuf := rfl
@[simp] theorem State.setErr_resets (b : Bool) : (s.setErr b).resets = s.resets := rfl
@[simp] theorem State.setErr_host (b : Bool) : (s.setErr b).host = s.host := rfl
@[simp] theorem State.setErr_reply (b : Bool) : (s.setErr b).reply = s.reply := rfl

/-! ### TRUNC and WF written -/

@[simp] theorem State.setFlags_cfg (f : FlagValues) : (s.setFlags f).cfg = s.cfg := rfl
@[simp] theorem State.setFlags_a0 (f : FlagValues) : (s.setFlags f).a0 = s.a0 := rfl
@[simp] theorem State.setFlags_a1 (f : FlagValues) : (s.setFlags f).a1 = s.a1 := rfl
@[simp] theorem State.setFlags_a2 (f : FlagValues) : (s.setFlags f).a2 = s.a2 := rfl
@[simp] theorem State.setFlags_a3 (f : FlagValues) : (s.setFlags f).a3 = s.a3 := rfl
@[simp] theorem State.setFlags_res (f : FlagValues) : (s.setFlags f).res = s.res := rfl
@[simp] theorem State.setFlags_crows (f : FlagValues) : (s.setFlags f).crows = s.crows := rfl
@[simp] theorem State.setFlags_ccols (f : FlagValues) : (s.setFlags f).ccols = s.ccols := rfl
@[simp] theorem State.setFlags_prows (f : FlagValues) : (s.setFlags f).prows = s.prows := rfl
@[simp] theorem State.setFlags_pcols (f : FlagValues) : (s.setFlags f).pcols = s.pcols := rfl
@[simp] theorem State.setFlags_plen (f : FlagValues) : (s.setFlags f).plen = s.plen := rfl
@[simp] theorem State.setFlags_klen (f : FlagValues) : (s.setFlags f).klen = s.klen := rfl
@[simp] theorem State.setFlags_orows (f : FlagValues) : (s.setFlags f).orows = s.orows := rfl
@[simp] theorem State.setFlags_ocols (f : FlagValues) : (s.setFlags f).ocols = s.ocols := rfl
@[simp] theorem State.setFlags_olen (f : FlagValues) : (s.setFlags f).olen = s.olen := rfl
@[simp] theorem State.setFlags_errcode (f : FlagValues) : (s.setFlags f).errcode = s.errcode := rfl
@[simp] theorem State.setFlags_errcmd (f : FlagValues) : (s.setFlags f).errcmd = s.errcmd := rfl
@[simp] theorem State.setFlags_errinfo (f : FlagValues) : (s.setFlags f).errinfo = s.errinfo := rfl
@[simp] theorem State.setFlags_cbuf (f : FlagValues) : (s.setFlags f).cbuf = s.cbuf := rfl
@[simp] theorem State.setFlags_pbuf (f : FlagValues) : (s.setFlags f).pbuf = s.pbuf := rfl
@[simp] theorem State.setFlags_kbuf (f : FlagValues) : (s.setFlags f).kbuf = s.kbuf := rfl
@[simp] theorem State.setFlags_obuf (f : FlagValues) : (s.setFlags f).obuf = s.obuf := rfl
@[simp] theorem State.setFlags_resets (f : FlagValues) : (s.setFlags f).resets = s.resets := rfl
@[simp] theorem State.setFlags_host (f : FlagValues) : (s.setFlags f).host = s.host := rfl
@[simp] theorem State.setFlags_reply (f : FlagValues) : (s.setFlags f).reply = s.reply := rfl

/-! ### RES written -/

@[simp] theorem State.setRes_cfg (v : Word) : (s.setRes v).cfg = s.cfg := rfl
@[simp] theorem State.setRes_a0 (v : Word) : (s.setRes v).a0 = s.a0 := rfl
@[simp] theorem State.setRes_a1 (v : Word) : (s.setRes v).a1 = s.a1 := rfl
@[simp] theorem State.setRes_a2 (v : Word) : (s.setRes v).a2 = s.a2 := rfl
@[simp] theorem State.setRes_a3 (v : Word) : (s.setRes v).a3 = s.a3 := rfl
@[simp] theorem State.setRes_crows (v : Word) : (s.setRes v).crows = s.crows := rfl
@[simp] theorem State.setRes_ccols (v : Word) : (s.setRes v).ccols = s.ccols := rfl
@[simp] theorem State.setRes_prows (v : Word) : (s.setRes v).prows = s.prows := rfl
@[simp] theorem State.setRes_pcols (v : Word) : (s.setRes v).pcols = s.pcols := rfl
@[simp] theorem State.setRes_plen (v : Word) : (s.setRes v).plen = s.plen := rfl
@[simp] theorem State.setRes_klen (v : Word) : (s.setRes v).klen = s.klen := rfl
@[simp] theorem State.setRes_orows (v : Word) : (s.setRes v).orows = s.orows := rfl
@[simp] theorem State.setRes_ocols (v : Word) : (s.setRes v).ocols = s.ocols := rfl
@[simp] theorem State.setRes_olen (v : Word) : (s.setRes v).olen = s.olen := rfl
@[simp] theorem State.setRes_status (v : Word) : (s.setRes v).status = s.status := rfl
@[simp] theorem State.setRes_errcode (v : Word) : (s.setRes v).errcode = s.errcode := rfl
@[simp] theorem State.setRes_errcmd (v : Word) : (s.setRes v).errcmd = s.errcmd := rfl
@[simp] theorem State.setRes_errinfo (v : Word) : (s.setRes v).errinfo = s.errinfo := rfl
@[simp] theorem State.setRes_cbuf (v : Word) : (s.setRes v).cbuf = s.cbuf := rfl
@[simp] theorem State.setRes_pbuf (v : Word) : (s.setRes v).pbuf = s.pbuf := rfl
@[simp] theorem State.setRes_kbuf (v : Word) : (s.setRes v).kbuf = s.kbuf := rfl
@[simp] theorem State.setRes_obuf (v : Word) : (s.setRes v).obuf = s.obuf := rfl
@[simp] theorem State.setRes_resets (v : Word) : (s.setRes v).resets = s.resets := rfl
@[simp] theorem State.setRes_host (v : Word) : (s.setRes v).host = s.host := rfl
@[simp] theorem State.setRes_reply (v : Word) : (s.setRes v).reply = s.reply := rfl

/-! ### the response given -/

@[simp] theorem State.answer_cfg (r : Reply) : (s.answer r).cfg = s.cfg := rfl
@[simp] theorem State.answer_a0 (r : Reply) : (s.answer r).a0 = s.a0 := rfl
@[simp] theorem State.answer_a1 (r : Reply) : (s.answer r).a1 = s.a1 := rfl
@[simp] theorem State.answer_a2 (r : Reply) : (s.answer r).a2 = s.a2 := rfl
@[simp] theorem State.answer_a3 (r : Reply) : (s.answer r).a3 = s.a3 := rfl
@[simp] theorem State.answer_res (r : Reply) : (s.answer r).res = s.res := rfl
@[simp] theorem State.answer_crows (r : Reply) : (s.answer r).crows = s.crows := rfl
@[simp] theorem State.answer_ccols (r : Reply) : (s.answer r).ccols = s.ccols := rfl
@[simp] theorem State.answer_prows (r : Reply) : (s.answer r).prows = s.prows := rfl
@[simp] theorem State.answer_pcols (r : Reply) : (s.answer r).pcols = s.pcols := rfl
@[simp] theorem State.answer_plen (r : Reply) : (s.answer r).plen = s.plen := rfl
@[simp] theorem State.answer_klen (r : Reply) : (s.answer r).klen = s.klen := rfl
@[simp] theorem State.answer_orows (r : Reply) : (s.answer r).orows = s.orows := rfl
@[simp] theorem State.answer_ocols (r : Reply) : (s.answer r).ocols = s.ocols := rfl
@[simp] theorem State.answer_olen (r : Reply) : (s.answer r).olen = s.olen := rfl
@[simp] theorem State.answer_status (r : Reply) : (s.answer r).status = s.status := rfl
@[simp] theorem State.answer_errcode (r : Reply) : (s.answer r).errcode = s.errcode := rfl
@[simp] theorem State.answer_errcmd (r : Reply) : (s.answer r).errcmd = s.errcmd := rfl
@[simp] theorem State.answer_errinfo (r : Reply) : (s.answer r).errinfo = s.errinfo := rfl
@[simp] theorem State.answer_cbuf (r : Reply) : (s.answer r).cbuf = s.cbuf := rfl
@[simp] theorem State.answer_pbuf (r : Reply) : (s.answer r).pbuf = s.pbuf := rfl
@[simp] theorem State.answer_kbuf (r : Reply) : (s.answer r).kbuf = s.kbuf := rfl
@[simp] theorem State.answer_obuf (r : Reply) : (s.answer r).obuf = s.obuf := rfl
@[simp] theorem State.answer_resets (r : Reply) : (s.answer r).resets = s.resets := rfl
@[simp] theorem State.answer_host (r : Reply) : (s.answer r).host = s.host := rfl

/-! ### a sequence result written -/

@[simp] theorem State.outSequence_cfg (n : Nat) (f : Nat → Word) : (s.outSequence n f).cfg = s.cfg := rfl
@[simp] theorem State.outSequence_a0 (n : Nat) (f : Nat → Word) : (s.outSequence n f).a0 = s.a0 := rfl
@[simp] theorem State.outSequence_a1 (n : Nat) (f : Nat → Word) : (s.outSequence n f).a1 = s.a1 := rfl
@[simp] theorem State.outSequence_a2 (n : Nat) (f : Nat → Word) : (s.outSequence n f).a2 = s.a2 := rfl
@[simp] theorem State.outSequence_a3 (n : Nat) (f : Nat → Word) : (s.outSequence n f).a3 = s.a3 := rfl
@[simp] theorem State.outSequence_res (n : Nat) (f : Nat → Word) : (s.outSequence n f).res = s.res := rfl
@[simp] theorem State.outSequence_crows (n : Nat) (f : Nat → Word) : (s.outSequence n f).crows = s.crows := rfl
@[simp] theorem State.outSequence_ccols (n : Nat) (f : Nat → Word) : (s.outSequence n f).ccols = s.ccols := rfl
@[simp] theorem State.outSequence_prows (n : Nat) (f : Nat → Word) : (s.outSequence n f).prows = s.prows := rfl
@[simp] theorem State.outSequence_pcols (n : Nat) (f : Nat → Word) : (s.outSequence n f).pcols = s.pcols := rfl
@[simp] theorem State.outSequence_plen (n : Nat) (f : Nat → Word) : (s.outSequence n f).plen = s.plen := rfl
@[simp] theorem State.outSequence_klen (n : Nat) (f : Nat → Word) : (s.outSequence n f).klen = s.klen := rfl
@[simp] theorem State.outSequence_status (n : Nat) (f : Nat → Word) : (s.outSequence n f).status = s.status := rfl
@[simp] theorem State.outSequence_errcode (n : Nat) (f : Nat → Word) : (s.outSequence n f).errcode = s.errcode := rfl
@[simp] theorem State.outSequence_errcmd (n : Nat) (f : Nat → Word) : (s.outSequence n f).errcmd = s.errcmd := rfl
@[simp] theorem State.outSequence_errinfo (n : Nat) (f : Nat → Word) : (s.outSequence n f).errinfo = s.errinfo := rfl
@[simp] theorem State.outSequence_cbuf (n : Nat) (f : Nat → Word) : (s.outSequence n f).cbuf = s.cbuf := rfl
@[simp] theorem State.outSequence_pbuf (n : Nat) (f : Nat → Word) : (s.outSequence n f).pbuf = s.pbuf := rfl
@[simp] theorem State.outSequence_kbuf (n : Nat) (f : Nat → Word) : (s.outSequence n f).kbuf = s.kbuf := rfl
@[simp] theorem State.outSequence_resets (n : Nat) (f : Nat → Word) : (s.outSequence n f).resets = s.resets := rfl
@[simp] theorem State.outSequence_host (n : Nat) (f : Nat → Word) : (s.outSequence n f).host = s.host := rfl
@[simp] theorem State.outSequence_reply (n : Nat) (f : Nat → Word) : (s.outSequence n f).reply = s.reply := rfl

/-! ### an image result written -/

@[simp] theorem State.outImage_cfg (rows cols : Word) (f : Nat → Word) : (s.outImage rows cols f).cfg = s.cfg := rfl
@[simp] theorem State.outImage_a0 (rows cols : Word) (f : Nat → Word) : (s.outImage rows cols f).a0 = s.a0 := rfl
@[simp] theorem State.outImage_a1 (rows cols : Word) (f : Nat → Word) : (s.outImage rows cols f).a1 = s.a1 := rfl
@[simp] theorem State.outImage_a2 (rows cols : Word) (f : Nat → Word) : (s.outImage rows cols f).a2 = s.a2 := rfl
@[simp] theorem State.outImage_a3 (rows cols : Word) (f : Nat → Word) : (s.outImage rows cols f).a3 = s.a3 := rfl
@[simp] theorem State.outImage_res (rows cols : Word) (f : Nat → Word) : (s.outImage rows cols f).res = s.res := rfl
@[simp] theorem State.outImage_crows (rows cols : Word) (f : Nat → Word) : (s.outImage rows cols f).crows = s.crows := rfl
@[simp] theorem State.outImage_ccols (rows cols : Word) (f : Nat → Word) : (s.outImage rows cols f).ccols = s.ccols := rfl
@[simp] theorem State.outImage_prows (rows cols : Word) (f : Nat → Word) : (s.outImage rows cols f).prows = s.prows := rfl
@[simp] theorem State.outImage_pcols (rows cols : Word) (f : Nat → Word) : (s.outImage rows cols f).pcols = s.pcols := rfl
@[simp] theorem State.outImage_plen (rows cols : Word) (f : Nat → Word) : (s.outImage rows cols f).plen = s.plen := rfl
@[simp] theorem State.outImage_klen (rows cols : Word) (f : Nat → Word) : (s.outImage rows cols f).klen = s.klen := rfl
@[simp] theorem State.outImage_status (rows cols : Word) (f : Nat → Word) : (s.outImage rows cols f).status = s.status := rfl
@[simp] theorem State.outImage_errcode (rows cols : Word) (f : Nat → Word) : (s.outImage rows cols f).errcode = s.errcode := rfl
@[simp] theorem State.outImage_errcmd (rows cols : Word) (f : Nat → Word) : (s.outImage rows cols f).errcmd = s.errcmd := rfl
@[simp] theorem State.outImage_errinfo (rows cols : Word) (f : Nat → Word) : (s.outImage rows cols f).errinfo = s.errinfo := rfl
@[simp] theorem State.outImage_cbuf (rows cols : Word) (f : Nat → Word) : (s.outImage rows cols f).cbuf = s.cbuf := rfl
@[simp] theorem State.outImage_pbuf (rows cols : Word) (f : Nat → Word) : (s.outImage rows cols f).pbuf = s.pbuf := rfl
@[simp] theorem State.outImage_kbuf (rows cols : Word) (f : Nat → Word) : (s.outImage rows cols f).kbuf = s.kbuf := rfl
@[simp] theorem State.outImage_resets (rows cols : Word) (f : Nat → Word) : (s.outImage rows cols f).resets = s.resets := rfl
@[simp] theorem State.outImage_host (rows cols : Word) (f : Nat → Word) : (s.outImage rows cols f).host = s.host := rfl
@[simp] theorem State.outImage_reply (rows cols : Word) (f : Nat → Word) : (s.outImage rows cols f).reply = s.reply := rfl

/-! ### a fault recorded -/

@[simp] theorem State.raise_cfg (w : Word) (f : Fault) (info : Word) : (s.raise w f info).cfg = s.cfg := rfl
@[simp] theorem State.raise_a0 (w : Word) (f : Fault) (info : Word) : (s.raise w f info).a0 = s.a0 := rfl
@[simp] theorem State.raise_a1 (w : Word) (f : Fault) (info : Word) : (s.raise w f info).a1 = s.a1 := rfl
@[simp] theorem State.raise_a2 (w : Word) (f : Fault) (info : Word) : (s.raise w f info).a2 = s.a2 := rfl
@[simp] theorem State.raise_a3 (w : Word) (f : Fault) (info : Word) : (s.raise w f info).a3 = s.a3 := rfl
@[simp] theorem State.raise_res (w : Word) (f : Fault) (info : Word) : (s.raise w f info).res = s.res := rfl
@[simp] theorem State.raise_crows (w : Word) (f : Fault) (info : Word) : (s.raise w f info).crows = s.crows := rfl
@[simp] theorem State.raise_ccols (w : Word) (f : Fault) (info : Word) : (s.raise w f info).ccols = s.ccols := rfl
@[simp] theorem State.raise_prows (w : Word) (f : Fault) (info : Word) : (s.raise w f info).prows = s.prows := rfl
@[simp] theorem State.raise_pcols (w : Word) (f : Fault) (info : Word) : (s.raise w f info).pcols = s.pcols := rfl
@[simp] theorem State.raise_plen (w : Word) (f : Fault) (info : Word) : (s.raise w f info).plen = s.plen := rfl
@[simp] theorem State.raise_klen (w : Word) (f : Fault) (info : Word) : (s.raise w f info).klen = s.klen := rfl
@[simp] theorem State.raise_orows (w : Word) (f : Fault) (info : Word) : (s.raise w f info).orows = s.orows := rfl
@[simp] theorem State.raise_ocols (w : Word) (f : Fault) (info : Word) : (s.raise w f info).ocols = s.ocols := rfl
@[simp] theorem State.raise_olen (w : Word) (f : Fault) (info : Word) : (s.raise w f info).olen = s.olen := rfl
@[simp] theorem State.raise_cbuf (w : Word) (f : Fault) (info : Word) : (s.raise w f info).cbuf = s.cbuf := rfl
@[simp] theorem State.raise_pbuf (w : Word) (f : Fault) (info : Word) : (s.raise w f info).pbuf = s.pbuf := rfl
@[simp] theorem State.raise_kbuf (w : Word) (f : Fault) (info : Word) : (s.raise w f info).kbuf = s.kbuf := rfl
@[simp] theorem State.raise_obuf (w : Word) (f : Fault) (info : Word) : (s.raise w f info).obuf = s.obuf := rfl
@[simp] theorem State.raise_resets (w : Word) (f : Fault) (info : Word) : (s.raise w f info).resets = s.resets := rfl
@[simp] theorem State.raise_host (w : Word) (f : Fault) (info : Word) : (s.raise w f info).host = s.host := rfl

/-! ### CLRERR -/

@[simp] theorem State.clrErr_cfg : (s.clrErr).cfg = s.cfg := rfl
@[simp] theorem State.clrErr_a0 : (s.clrErr).a0 = s.a0 := rfl
@[simp] theorem State.clrErr_a1 : (s.clrErr).a1 = s.a1 := rfl
@[simp] theorem State.clrErr_a2 : (s.clrErr).a2 = s.a2 := rfl
@[simp] theorem State.clrErr_a3 : (s.clrErr).a3 = s.a3 := rfl
@[simp] theorem State.clrErr_res : (s.clrErr).res = s.res := rfl
@[simp] theorem State.clrErr_crows : (s.clrErr).crows = s.crows := rfl
@[simp] theorem State.clrErr_ccols : (s.clrErr).ccols = s.ccols := rfl
@[simp] theorem State.clrErr_prows : (s.clrErr).prows = s.prows := rfl
@[simp] theorem State.clrErr_pcols : (s.clrErr).pcols = s.pcols := rfl
@[simp] theorem State.clrErr_plen : (s.clrErr).plen = s.plen := rfl
@[simp] theorem State.clrErr_klen : (s.clrErr).klen = s.klen := rfl
@[simp] theorem State.clrErr_orows : (s.clrErr).orows = s.orows := rfl
@[simp] theorem State.clrErr_ocols : (s.clrErr).ocols = s.ocols := rfl
@[simp] theorem State.clrErr_olen : (s.clrErr).olen = s.olen := rfl
@[simp] theorem State.clrErr_cbuf : (s.clrErr).cbuf = s.cbuf := rfl
@[simp] theorem State.clrErr_pbuf : (s.clrErr).pbuf = s.pbuf := rfl
@[simp] theorem State.clrErr_kbuf : (s.clrErr).kbuf = s.kbuf := rfl
@[simp] theorem State.clrErr_obuf : (s.clrErr).obuf = s.obuf := rfl
@[simp] theorem State.clrErr_resets : (s.clrErr).resets = s.resets := rfl
@[simp] theorem State.clrErr_host : (s.clrErr).host = s.host := rfl
@[simp] theorem State.clrErr_reply : (s.clrErr).reply = s.reply := rfl

/-! ### the first words of a buffer written -/

@[simp] theorem State.fill_cfg (b : Buffer) (n : Nat) (g : Nat → Word) : (s.fill b n g).cfg = s.cfg := by cases b <;> rfl
@[simp] theorem State.fill_a0 (b : Buffer) (n : Nat) (g : Nat → Word) : (s.fill b n g).a0 = s.a0 := by cases b <;> rfl
@[simp] theorem State.fill_a1 (b : Buffer) (n : Nat) (g : Nat → Word) : (s.fill b n g).a1 = s.a1 := by cases b <;> rfl
@[simp] theorem State.fill_a2 (b : Buffer) (n : Nat) (g : Nat → Word) : (s.fill b n g).a2 = s.a2 := by cases b <;> rfl
@[simp] theorem State.fill_a3 (b : Buffer) (n : Nat) (g : Nat → Word) : (s.fill b n g).a3 = s.a3 := by cases b <;> rfl
@[simp] theorem State.fill_res (b : Buffer) (n : Nat) (g : Nat → Word) : (s.fill b n g).res = s.res := by cases b <;> rfl
@[simp] theorem State.fill_crows (b : Buffer) (n : Nat) (g : Nat → Word) : (s.fill b n g).crows = s.crows := by cases b <;> rfl
@[simp] theorem State.fill_ccols (b : Buffer) (n : Nat) (g : Nat → Word) : (s.fill b n g).ccols = s.ccols := by cases b <;> rfl
@[simp] theorem State.fill_prows (b : Buffer) (n : Nat) (g : Nat → Word) : (s.fill b n g).prows = s.prows := by cases b <;> rfl
@[simp] theorem State.fill_pcols (b : Buffer) (n : Nat) (g : Nat → Word) : (s.fill b n g).pcols = s.pcols := by cases b <;> rfl
@[simp] theorem State.fill_plen (b : Buffer) (n : Nat) (g : Nat → Word) : (s.fill b n g).plen = s.plen := by cases b <;> rfl
@[simp] theorem State.fill_klen (b : Buffer) (n : Nat) (g : Nat → Word) : (s.fill b n g).klen = s.klen := by cases b <;> rfl
@[simp] theorem State.fill_orows (b : Buffer) (n : Nat) (g : Nat → Word) : (s.fill b n g).orows = s.orows := by cases b <;> rfl
@[simp] theorem State.fill_ocols (b : Buffer) (n : Nat) (g : Nat → Word) : (s.fill b n g).ocols = s.ocols := by cases b <;> rfl
@[simp] theorem State.fill_olen (b : Buffer) (n : Nat) (g : Nat → Word) : (s.fill b n g).olen = s.olen := by cases b <;> rfl
@[simp] theorem State.fill_status (b : Buffer) (n : Nat) (g : Nat → Word) : (s.fill b n g).status = s.status := by cases b <;> rfl
@[simp] theorem State.fill_errcode (b : Buffer) (n : Nat) (g : Nat → Word) : (s.fill b n g).errcode = s.errcode := by cases b <;> rfl
@[simp] theorem State.fill_errcmd (b : Buffer) (n : Nat) (g : Nat → Word) : (s.fill b n g).errcmd = s.errcmd := by cases b <;> rfl
@[simp] theorem State.fill_errinfo (b : Buffer) (n : Nat) (g : Nat → Word) : (s.fill b n g).errinfo = s.errinfo := by cases b <;> rfl
@[simp] theorem State.fill_resets (b : Buffer) (n : Nat) (g : Nat → Word) : (s.fill b n g).resets = s.resets := by cases b <;> rfl
@[simp] theorem State.fill_host (b : Buffer) (n : Nat) (g : Nat → Word) : (s.fill b n g).host = s.host := by cases b <;> rfl
@[simp] theorem State.fill_reply (b : Buffer) (n : Nat) (g : Nat → Word) : (s.fill b n g).reply = s.reply := by cases b <;> rfl

/-! ### the output moved to an input buffer -/

@[simp] theorem State.moveTo_cfg (d : Dest) : (s.moveTo d).cfg = s.cfg := by cases d <;> rfl
@[simp] theorem State.moveTo_a0 (d : Dest) : (s.moveTo d).a0 = s.a0 := by cases d <;> rfl
@[simp] theorem State.moveTo_a1 (d : Dest) : (s.moveTo d).a1 = s.a1 := by cases d <;> rfl
@[simp] theorem State.moveTo_a2 (d : Dest) : (s.moveTo d).a2 = s.a2 := by cases d <;> rfl
@[simp] theorem State.moveTo_a3 (d : Dest) : (s.moveTo d).a3 = s.a3 := by cases d <;> rfl
@[simp] theorem State.moveTo_res (d : Dest) : (s.moveTo d).res = s.res := by cases d <;> rfl
@[simp] theorem State.moveTo_orows (d : Dest) : (s.moveTo d).orows = s.orows := by cases d <;> rfl
@[simp] theorem State.moveTo_ocols (d : Dest) : (s.moveTo d).ocols = s.ocols := by cases d <;> rfl
@[simp] theorem State.moveTo_olen (d : Dest) : (s.moveTo d).olen = s.olen := by cases d <;> rfl
@[simp] theorem State.moveTo_status (d : Dest) : (s.moveTo d).status = s.status := by cases d <;> rfl
@[simp] theorem State.moveTo_errcode (d : Dest) : (s.moveTo d).errcode = s.errcode := by cases d <;> rfl
@[simp] theorem State.moveTo_errcmd (d : Dest) : (s.moveTo d).errcmd = s.errcmd := by cases d <;> rfl
@[simp] theorem State.moveTo_errinfo (d : Dest) : (s.moveTo d).errinfo = s.errinfo := by cases d <;> rfl
@[simp] theorem State.moveTo_resets (d : Dest) : (s.moveTo d).resets = s.resets := by cases d <;> rfl
@[simp] theorem State.moveTo_host (d : Dest) : (s.moveTo d).host = s.host := by cases d <;> rfl
@[simp] theorem State.moveTo_reply (d : Dest) : (s.moveTo d).reply = s.reply := by cases d <;> rfl

@[simp] theorem State.moveTo_c_crows : (s.moveTo .c).crows = s.orows := rfl
@[simp] theorem State.moveTo_c_ccols : (s.moveTo .c).ccols = s.ocols := rfl
@[simp] theorem State.moveTo_c_prows : (s.moveTo .c).prows = s.prows := rfl
@[simp] theorem State.moveTo_c_pcols : (s.moveTo .c).pcols = s.pcols := rfl
@[simp] theorem State.moveTo_c_plen : (s.moveTo .c).plen = s.plen := rfl
@[simp] theorem State.moveTo_c_klen : (s.moveTo .c).klen = s.klen := rfl
@[simp] theorem State.moveTo_p_crows : (s.moveTo .p).crows = s.crows := rfl
@[simp] theorem State.moveTo_p_ccols : (s.moveTo .p).ccols = s.ccols := rfl
@[simp] theorem State.moveTo_p_prows : (s.moveTo .p).prows = s.orows := rfl
@[simp] theorem State.moveTo_p_pcols : (s.moveTo .p).pcols = s.ocols := rfl
@[simp] theorem State.moveTo_p_plen : (s.moveTo .p).plen = s.olen := rfl
@[simp] theorem State.moveTo_p_klen : (s.moveTo .p).klen = s.klen := rfl
@[simp] theorem State.moveTo_k_crows : (s.moveTo .k).crows = s.crows := rfl
@[simp] theorem State.moveTo_k_ccols : (s.moveTo .k).ccols = s.ccols := rfl
@[simp] theorem State.moveTo_k_prows : (s.moveTo .k).prows = s.prows := rfl
@[simp] theorem State.moveTo_k_pcols : (s.moveTo .k).pcols = s.pcols := rfl
@[simp] theorem State.moveTo_k_plen : (s.moveTo .k).plen = s.plen := rfl
@[simp] theorem State.moveTo_k_klen : (s.moveTo .k).klen = s.olen := rfl

/-! ### The fields an update writes -/

@[simp] theorem State.setRes_res (v : Word) : (s.setRes v).res = v := rfl
@[simp] theorem State.answer_reply (r : Reply) : (s.answer r).reply = some r := rfl
@[simp] theorem State.outSequence_orows (n : Nat) (f : Nat → Word) : (s.outSequence n f).orows = 0 := rfl
@[simp] theorem State.outSequence_ocols (n : Nat) (f : Nat → Word) : (s.outSequence n f).ocols = 0 := rfl
@[simp] theorem State.outSequence_olen (n : Nat) (f : Nat → Word) : (s.outSequence n f).olen = natWord n := rfl
@[simp] theorem State.outImage_orows (rows cols : Word) (f : Nat → Word) : (s.outImage rows cols f).orows = rows := rfl
@[simp] theorem State.outImage_ocols (rows cols : Word) (f : Nat → Word) : (s.outImage rows cols f).ocols = cols := rfl
@[simp] theorem State.outImage_olen (rows cols : Word) (f : Nat → Word) :
    (s.outImage rows cols f).olen = natWord (rows.toNat * cols.toNat) := rfl
@[simp] theorem State.raise_errcode (w : Word) (f : Fault) (info : Word) :
    (s.raise w f info).errcode = byteWord f.code := rfl
@[simp] theorem State.raise_errcmd (w : Word) (f : Fault) (info : Word) : (s.raise w f info).errcmd = w := rfl
@[simp] theorem State.raise_errinfo (w : Word) (f : Fault) (info : Word) : (s.raise w f info).errinfo = info := rfl
@[simp] theorem State.raise_reply (w : Word) (f : Fault) (info : Word) :
    (s.raise w f info).reply = some (.writeDone .cmdErr) := rfl
@[simp] theorem State.clrErr_errcode : s.clrErr.errcode = 0 := rfl
@[simp] theorem State.clrErr_errcmd : s.clrErr.errcmd = 0 := rfl
@[simp] theorem State.clrErr_errinfo : s.clrErr.errinfo = 0 := rfl

/-! ### The contents of buffers -/

@[simp] theorem State.setMem_mem (b b' : Buffer) (m : Memory) :
    (s.setMem b m).mem b' = if b' = b then m else s.mem b' := by cases b <;> cases b' <;> rfl
@[simp] theorem State.setErr_mem (v : Bool) (b : Buffer) : (s.setErr v).mem b = s.mem b := by cases b <;> rfl
@[simp] theorem State.setFlags_mem (f : FlagValues) (b : Buffer) : (s.setFlags f).mem b = s.mem b := by cases b <;> rfl
@[simp] theorem State.setRes_mem (v : Word) (b : Buffer) : (s.setRes v).mem b = s.mem b := by cases b <;> rfl
@[simp] theorem State.answer_mem (r : Reply) (b : Buffer) : (s.answer r).mem b = s.mem b := by cases b <;> rfl
@[simp] theorem State.raise_mem (w : Word) (f : Fault) (info : Word) (b : Buffer) :
    (s.raise w f info).mem b = s.mem b := by cases b <;> rfl
@[simp] theorem State.clrErr_mem (b : Buffer) : s.clrErr.mem b = s.mem b := by cases b <;> rfl

/-! ### Registers as the port reads them -/

@[simp] theorem State.setMem_readReg (b : Buffer) (m : Memory) (r : Reg) :
    (s.setMem b m).readReg r = s.readReg r := by cases b <;> cases r <;> rfl
@[simp] theorem State.answer_readReg (a : Reply) (r : Reg) : (s.answer a).readReg r = s.readReg r := by cases r <;> rfl
theorem State.setFlags_readReg (f : FlagValues) (r : Reg) (h : r ≠ .status) :
    (s.setFlags f).readReg r = s.readReg r := by cases r <;> first | rfl | exact absurd rfl h

end Sys2Proof.Machine
end

