-- ==== Sys2Proof/Laws/Bits.lean ====
section
/-! SUPPORT. What the bit functions and the flag updates do, bit by bit. -/

namespace Sys2Proof.Machine

@[simp] theorem toNat_bitWord (b : Bool) : (bitWord b).toNat = b.toNat := by cases b <;> rfl

@[simp] theorem toNat_byteWord (b : Byte) : (byteWord b).toNat = b.toNat := by
  have := b.isLt
  simp only [byteWord, BitVec.toNat_setWidth]
  omega

@[simp] theorem toNat_wordByte (w : Word) : (wordByte w).toNat = w.toNat % 256 := by simp [wordByte]

@[simp] theorem toNat_natWord (n : Nat) : (natWord n).toNat = n % 2 ^ 32 := by simp [natWord]

/-- A count within the greatest buffer depth is written exactly. -/
theorem toNat_natWord_of_le {n : Nat} (h : n ≤ 2 ^ 20) : (natWord n).toNat = n := by
  rw [toNat_natWord]
  omega

theorem getLsbD_bitWord (b : Bool) (i : Nat) : (bitWord b).getLsbD i = (b && decide (i = 0)) := by
  cases b <;> simp [bitWord, BitVec.getLsbD_one]

/-- `setBit` writes one bit of the word and leaves the others (40_bitops.md R120). -/
theorem getLsbD_setBit (v : Word) (b : Bool) (p i : Nat) (hp : p < 32) :
    (setBit v b p).getLsbD i = if i = p then b else v.getLsbD i := by
  unfold setBit
  by_cases hi : i < 32
  · simp only [BitVec.getLsbD_or, BitVec.getLsbD_and, BitVec.getLsbD_not, BitVec.getLsbD_shiftLeft, BitVec.getLsbD_one,
      getLsbD_bitWord, hi, decide_true, Bool.true_and]
    rcases lt_trichotomy i p with h | h | h
    · have : i ≠ p := by omega
      simp [h, this]
    · subst h
      simp
    · have h1 : ¬ i < p := by omega
      have h2 : ¬ i - p = 0 := by omega
      have h3 : i ≠ p := by omega
      simp [h1, h2, h3]
  · have h1 : i ≠ p := by omega
    rw [if_neg h1, BitVec.getLsbD_of_ge _ _ (by omega), BitVec.getLsbD_of_ge _ _ (by omega)]

/-- Writing one of the three flag bits leaves the reserved bits of STATUS. -/
theorem reserved_setBit (v : Word) (b : Bool) (p : Nat) (hp : p < 3) :
    (setBit v b p).extractLsb' 3 29 = v.extractLsb' 3 29 := by
  apply BitVec.eq_of_getLsbD_eq
  intro i hi
  simp only [BitVec.getLsbD_extractLsb', hi, decide_true, Bool.true_and]
  rw [getLsbD_setBit _ _ _ _ (by omega), if_neg (by omega)]

@[simp] theorem State.setErr_err (s : State) (b : Bool) : (s.setErr b).err = b := by
  rw [State.err, State.setErr, getLsbD_setBit _ _ _ _ (by omega), if_pos rfl]

@[simp] theorem State.setErr_trunc (s : State) (b : Bool) : (s.setErr b).trunc = s.trunc := by
  rw [State.trunc, State.setErr, getLsbD_setBit _ _ _ _ (by omega), if_neg (by omega), State.trunc]

@[simp] theorem State.setErr_wellFormedFlag (s : State) (b : Bool) :
    (s.setErr b).wellFormedFlag = s.wellFormedFlag := by
  rw [State.wellFormedFlag, State.setErr, getLsbD_setBit _ _ _ _ (by omega), if_neg (by omega), State.wellFormedFlag]

@[simp] theorem State.setErr_reserved (s : State) (b : Bool) :
    (s.setErr b).status.extractLsb' 3 29 = s.status.extractLsb' 3 29 := reserved_setBit _ _ _ (by omega)

@[simp] theorem State.setFlags_err (s : State) (f : FlagValues) : (s.setFlags f).err = s.err := by
  rw [State.err, State.setFlags, getLsbD_setBit _ _ _ _ (by omega), if_neg (by omega),
    getLsbD_setBit _ _ _ _ (by omega), if_neg (by omega), State.err]

@[simp] theorem State.setFlags_trunc (s : State) (f : FlagValues) : (s.setFlags f).trunc = f.trunc := by
  rw [State.trunc, State.setFlags, getLsbD_setBit _ _ _ _ (by omega), if_neg (by omega),
    getLsbD_setBit _ _ _ _ (by omega), if_pos rfl]

@[simp] theorem State.setFlags_wellFormedFlag (s : State) (f : FlagValues) :
    (s.setFlags f).wellFormedFlag = f.wf := by
  rw [State.wellFormedFlag, State.setFlags, getLsbD_setBit _ _ _ _ (by omega), if_pos rfl]

@[simp] theorem State.setFlags_reserved (s : State) (f : FlagValues) :
    (s.setFlags f).status.extractLsb' 3 29 = s.status.extractLsb' 3 29 := by
  show (setBit (setBit s.status f.trunc 1) f.wf 2).extractLsb' 3 29 = _
  rw [reserved_setBit _ _ _ (by omega), reserved_setBit _ _ _ (by omega)]

/-- The value of a bit sequence with one more bit at the end. -/
theorem bitsValue_append_singleton (s : List Bool) (b : Bool) :
    bitsValue (s ++ [b]) = 2 * bitsValue s + b.toNat := by simp [bitsValue]

theorem bitsValue_lt (s : List Bool) : bitsValue s < 2 ^ s.length := by
  induction s using List.reverseRecOn with
  | nil => simp [bitsValue]
  | append_singleton s b ih =>
    rw [bitsValue_append_singleton, List.length_append, List.length_singleton, pow_succ]
    have := Bool.toNat_le b
    omega

@[simp] theorem length_byteToBits (b : Byte) : (byteToBits b).length = 8 := by simp [byteToBits]

/-- Element `i` of the bits of a byte is its bit `7 - i` (40_bitops.md R125). -/
theorem getElem_byteToBits (b : Byte) (i : Nat) (h : i < (byteToBits b).length) :
    (byteToBits b)[i] = b.getLsbD (7 - i) := by simp [byteToBits]

end Sys2Proof.Machine
end

