-- ==== Sys2Proof/Laws/Memory.lean ====
section
/-! SUPPORT. Read after write for buffers, and that every buffer operation keeps the canonical form. -/

namespace Sys2Proof.Machine

/-! ### One buffer -/

@[simp] theorem Memory.get?_nil (i : Nat) : Memory.get? [] i = none := rfl

theorem Memory.get?_cons (a : Nat) (v : Word) (m : Memory) (i : Nat) :
    Memory.get? ((a, v) :: m) i = if a = i then some v else Memory.get? m i := rfl

/-- Reading after a write gives the value written; every other word reads as before. -/
theorem Memory.get?_set (m : Memory) (i j : Nat) (v : Word) :
    Memory.get? (Memory.set m i v) j = if i = j then some v else Memory.get? m j := by
  induction m with
  | nil => simp [Memory.set, Memory.get?]
  | cons c m ih =>
    obtain ⟨a, x⟩ := c
    simp only [Memory.set]
    split
    · simp [Memory.get?]
    · split
      · subst i
        simp only [Memory.get?_cons]
        split <;> rfl
      · simp only [Memory.get?_cons, ih]
        split
        · rw [if_neg (by omega)]
        · rfl

theorem Memory.get?_append (m m' : Memory) (i : Nat) :
    Memory.get? (m ++ m') i = (Memory.get? m i).or (Memory.get? m' i) := by
  induction m with
  | nil => simp
  | cons c m ih =>
    obtain ⟨a, x⟩ := c
    simp only [List.cons_append, Memory.get?_cons, ih]
    split <;> simp

theorem Memory.get?_cellsFrom (ws : List Word) (k i : Nat) :
    Memory.get? (cellsFrom k ws) i = if k ≤ i then ws[i - k]? else none := by
  induction ws generalizing k with
  | nil => simp [cellsFrom]
  | cons w ws ih =>
    simp only [cellsFrom, Memory.get?_cons, ih]
    rcases lt_trichotomy k i with h | h | h
    · rw [if_neg (by omega), if_pos (by omega), if_pos (by omega)]
      obtain ⟨d, rfl⟩ : ∃ d, i = k + 1 + d := ⟨i - (k + 1), by omega⟩
      rw [show k + 1 + d - k = d + 1 by omega, show k + 1 + d - (k + 1) = d by omega]
      rfl
    · subst h
      simp
    · rw [if_neg (by omega), if_neg (by omega), if_neg (by omega)]

theorem Memory.get?_filter_ge (m : Memory) (n i : Nat) :
    Memory.get? (m.filter fun c => decide (n ≤ c.1)) i = if n ≤ i then Memory.get? m i else none := by
  induction m with
  | nil => simp
  | cons c m ih =>
    obtain ⟨a, x⟩ := c
    by_cases ha : n ≤ a
    · rw [List.filter_cons_of_pos (by simpa using ha), Memory.get?_cons, ih, Memory.get?_cons]
      split
      · subst a
        rw [if_pos ha]
      · rfl
    · rw [List.filter_cons_of_neg (by simpa using ha), ih, Memory.get?_cons]
      by_cases hi : n ≤ i
      · rw [if_pos hi, if_pos hi, if_neg (by omega)]
      · rw [if_neg hi, if_neg hi]

/-- Words 0 to `ws.length - 1` are those written; every later word reads as before (20_memory.md R63). -/
theorem Memory.get?_setPrefix (m : Memory) (ws : List Word) (i : Nat) :
    Memory.get? (Memory.setPrefix m ws) i = if i < ws.length then ws[i]? else Memory.get? m i := by
  rw [Memory.setPrefix, Memory.get?_append, Memory.get?_cellsFrom, Memory.get?_filter_ge, if_pos (Nat.zero_le _),
    Nat.sub_zero]
  by_cases h : i < ws.length
  · simp [h]
  · rw [if_neg h, if_pos (by omega), List.getElem?_eq_none (by omega)]
    rfl

theorem Memory.wf_nil (bufw : Nat) : Memory.wf bufw [] := ⟨List.Pairwise.nil, fun _ h => nomatch h⟩

theorem Memory.mem_set {m : Memory} {i : Nat} {v : Word} {c : Nat × Word} (h : c ∈ Memory.set m i v) :
    c = (i, v) ∨ c ∈ m := by
  induction m with
  | nil => simpa [Memory.set] using h
  | cons d m ih =>
    obtain ⟨a, x⟩ := d
    simp only [Memory.set] at h
    split at h
    · simpa using h
    · split at h
      · rcases List.mem_cons.1 h with h | h
        · exact .inl h
        · exact .inr (List.mem_cons_of_mem _ h)
      · rcases List.mem_cons.1 h with h | h
        · exact .inr (h ▸ List.mem_cons_self)
        · rcases ih h with h | h
          · exact .inl h
          · exact .inr (List.mem_cons_of_mem _ h)

/-- A write of one word inside the depth keeps the canonical form. -/
theorem Memory.wf_set {bufw : Nat} {m : Memory} {i : Nat} (v : Word) (h : Memory.wf bufw m) (hi : i < bufw) :
    Memory.wf bufw (Memory.set m i v) := by
  refine ⟨?_, fun c hc => ?_⟩
  · have hs := h.1
    clear h hi
    induction m with
    | nil => simp [Memory.set]
    | cons d m ih =>
      obtain ⟨a, x⟩ := d
      rw [List.map_cons, List.pairwise_cons] at hs
      simp only [Memory.set]
      split
      · rename_i hlt
        rw [List.map_cons, List.pairwise_cons, List.map_cons, List.pairwise_cons]
        refine ⟨fun b hb => ?_, hs⟩
        rcases List.mem_cons.1 hb with rfl | hb
        · exact hlt
        · exact lt_trans hlt (hs.1 b hb)
      · split
        · subst i
          rw [List.map_cons, List.pairwise_cons]
          exact hs
        · rw [List.map_cons, List.pairwise_cons]
          refine ⟨fun b hb => ?_, ih hs.2⟩
          obtain ⟨c, hc, rfl⟩ := List.mem_map.1 hb
          rcases Memory.mem_set hc with rfl | hc
          · show a < i
            omega
          · exact hs.1 _ (List.mem_map_of_mem hc)
  · rcases Memory.mem_set hc with rfl | hc
    · exact hi
    · exact h.2 c hc

theorem map_fst_cellsFrom (ws : List Word) (k : Nat) :
    (cellsFrom k ws).map Prod.fst = List.range' k ws.length := by
  induction ws generalizing k with
  | nil => rfl
  | cons w ws ih => simp [cellsFrom, ih, List.range'_succ]

/-- A write of a prefix no longer than the depth keeps the canonical form. -/
theorem Memory.wf_setPrefix {bufw : Nat} {m : Memory} {ws : List Word} (h : Memory.wf bufw m)
    (hn : ws.length ≤ bufw) : Memory.wf bufw (Memory.setPrefix m ws) := by
  have hk : ∀ c ∈ cellsFrom 0 ws, c.1 < ws.length := fun c hc => by
    have := List.mem_map_of_mem (f := Prod.fst) hc
    rw [map_fst_cellsFrom, List.mem_range'_1] at this
    omega
  refine ⟨?_, fun c hc => ?_⟩
  · rw [Memory.setPrefix, List.map_append, List.pairwise_append]
    refine ⟨?_, ?_, ?_⟩
    · rw [map_fst_cellsFrom]
      exact List.pairwise_lt_range'
    · exact h.1.sublist (List.Sublist.map _ List.filter_sublist)
    · intro a ha b hb
      obtain ⟨c, hc, rfl⟩ := List.mem_map.1 ha
      obtain ⟨d, hd, rfl⟩ := List.mem_map.1 hb
      have h1 := hk c hc
      have h2 := (List.mem_filter.1 hd).2
      simp only [decide_eq_true_eq] at h2
      omega
  · rcases List.mem_append.1 hc with hc | hc
    · exact lt_of_lt_of_le (hk c hc) hn
    · exact h.2 c (List.mem_filter.1 hc).1

/-! ### The words of a state -/

section
variable (s : State)

/-- The words of the reset state are free values: nothing is listed. -/
theorem State.word_of_get? {b : Buffer} {i : Nat} {v : Word} (h : Memory.get? (s.mem b) i = some v) :
    s.word b i = v := by simp [State.word, h]

/-- A word depends on its buffer and on the count of resets only. -/
theorem State.word_congr {s t : State} {b : Buffer} (hm : t.mem b = s.mem b) (hr : t.resets = s.resets) (i : Nat) :
    t.word b i = s.word b i := by rw [State.word, State.word, hm, hr]

theorem State.word_setMem (b b' : Buffer) (m : Memory) (i : Nat) :
    (s.setMem b m).word b' i
      = if b' = b then (Memory.get? m i).getD (Config.unwritten s.resets b' i) else s.word b' i := by
  simp only [State.word, State.setMem_mem, State.setMem_resets]
  split <;> rfl

@[simp] theorem State.setFlags_word (f : FlagValues) (b : Buffer) (i : Nat) :
    (s.setFlags f).word b i = s.word b i := State.word_congr (by simp) (by simp) i

@[simp] theorem State.setErr_word (v : Bool) (b : Buffer) (i : Nat) : (s.setErr v).word b i = s.word b i :=
  State.word_congr (by simp) (by simp) i

@[simp] theorem State.answer_word (r : Reply) (b : Buffer) (i : Nat) : (s.answer r).word b i = s.word b i :=
  State.word_congr (by simp) (by simp) i

@[simp] theorem State.setRes_word (v : Word) (b : Buffer) (i : Nat) : (s.setRes v).word b i = s.word b i :=
  State.word_congr (by simp) (by simp) i

@[simp] theorem State.raise_word (w : Word) (f : Fault) (info : Word) (b : Buffer) (i : Nat) :
    (s.raise w f info).word b i = s.word b i := State.word_congr (by simp) (by simp) i

@[simp] theorem State.clrErr_word (b : Buffer) (i : Nat) : s.clrErr.word b i = s.word b i :=
  State.word_congr (by simp) (by simp) i

/-- Reading after a write of one buffer word. -/
theorem State.setWord_word (b b' : Buffer) (i j : Nat) (v : Word) :
    (s.setWord b i v).word b' j = if b' = b ∧ i = j then v else s.word b' j := by
  rw [State.setWord, State.word_setMem, Memory.get?_set]
  by_cases hb : b' = b
  · subst hb
    by_cases hi : i = j
    · simp [hi]
    · simp [hi, State.word]
  · simp [hb]

/-- `fill` writes words 0 to `n - 1` of one buffer; every other word reads as before. -/
theorem State.fill_word (b b' : Buffer) (n : Nat) (f : Nat → Word) (i : Nat) :
    (s.fill b n f).word b' i = if b' = b ∧ i < n then f i else s.word b' i := by
  rw [State.fill, State.word_setMem, Memory.get?_setPrefix]
  by_cases hb : b' = b
  · subst hb
    by_cases hi : i < n
    · simp [hi]
    · simp [hi, State.word]
  · simp [hb]

/-- What a sequence result leaves in the buffers. -/
theorem State.outSequence_word (n : Nat) (f : Nat → Word) (b : Buffer) (i : Nat) :
    (s.outSequence n f).word b i = if b = .obuf ∧ i < n then f i else s.word b i := by
  rw [← State.fill_word s .obuf b n f i]
  exact State.word_congr (by cases b <;> rfl) rfl i

/-- What an image result leaves in the buffers. -/
theorem State.outImage_word (rows cols : Word) (f : Nat → Word) (b : Buffer) (i : Nat) :
    (s.outImage rows cols f).word b i
      = if b = .obuf ∧ i < rows.toNat * cols.toNat then f i else s.word b i := by
  rw [← State.fill_word s .obuf b _ f i]
  exact State.word_congr (by cases b <;> rfl) rfl i

@[simp] theorem State.length_words (b : Buffer) (n : Nat) : (s.words b n).length = n := by simp [State.words]

theorem State.getElem_words (b : Buffer) (n i : Nat) (h : i < (s.words b n).length) :
    (s.words b n)[i] = s.word b i := by simp [State.words]

/-- The memory of the reset state has the canonical form. -/
theorem State.resetWith_wf (cfg : Config) (n : Nat) (host : List Txn) (b : Buffer) :
    Memory.wf cfg.bufw ((State.resetWith cfg n host).mem b) := by cases b <;> exact Memory.wf_nil _

theorem State.reset_wf (b : Buffer) : Memory.wf State.reset.cfg.bufw (State.reset.mem b) :=
  State.resetWith_wf _ _ _ b

/-- `fill` within the depth keeps the canonical form of every buffer. -/
theorem State.fill_wf {s : State} {bufw : Nat} (h : ∀ b, Memory.wf bufw (s.mem b)) (b : Buffer) {n : Nat}
    (f : Nat → Word) (hn : n ≤ bufw) (b' : Buffer) : Memory.wf bufw ((s.fill b n f).mem b') := by
  rw [State.fill, State.setMem_mem]
  split
  · exact Memory.wf_setPrefix (h b) (by simpa using hn)
  · exact h b'

theorem State.outSequence_wf {s : State} {bufw : Nat} (h : ∀ b, Memory.wf bufw (s.mem b)) {n : Nat} (f : Nat → Word)
    (hn : n ≤ bufw) (b : Buffer) : Memory.wf bufw ((s.outSequence n f).mem b) := by
  have := State.fill_wf h .obuf f hn b
  cases b <;> exact this

theorem State.outImage_wf {s : State} {bufw : Nat} (h : ∀ b, Memory.wf bufw (s.mem b)) (rows cols : Word)
    (f : Nat → Word) (hn : rows.toNat * cols.toNat ≤ bufw) (b : Buffer) :
    Memory.wf bufw ((s.outImage rows cols f).mem b) := by
  have := State.fill_wf h .obuf f hn b
  cases b <;> exact this

/-- A write of one word inside the depth keeps the canonical form of every buffer. -/
theorem State.setWord_wf {s : State} {bufw : Nat} (h : ∀ b, Memory.wf bufw (s.mem b)) (b : Buffer) {i : Nat}
    (v : Word) (hi : i < bufw) (b' : Buffer) : Memory.wf bufw ((s.setWord b i v).mem b') := by
  rw [State.setWord, State.setMem_mem]
  split
  · exact Memory.wf_set v (h b) hi
  · exact h b'

end

end Sys2Proof.Machine
end

