-- ==== Sys2Proof/Laws/Command.lean ====
section
/-! SUPPORT. What the shared operations of the commands can do: a check, a list of checks, the execution template, a
scalar result, a sequence or image result, a recorded fault. -/

namespace Sys2Proof.Machine

/-! ### Checks -/

theorem require_eq_none {p : Prop} [Decidable p] {f : Fault} {info : Word} : require p f info = none ↔ p := by
  unfold require
  split <;> simp_all

theorem require_pos {p : Prop} [Decidable p] (f : Fault) (info : Word) (h : p) : require p f info = none :=
  if_pos h

theorem require_neg {p : Prop} [Decidable p] (f : Fault) (info : Word) (h : ¬p) :
    require p f info = some ⟨f, info⟩ := if_neg h

theorem require_eq_some {p : Prop} [Decidable p] {f : Fault} {info : Word} {v : Violation} :
    require p f info = some v ↔ ¬p ∧ v = ⟨f, info⟩ := by
  unfold require
  split <;> simp_all [eq_comm]

/-- Both checks pass. -/
theorem check_orElse_eq_none {a b : Option Violation} : (a <|> b) = none ↔ a = none ∧ b = none := by
  cases a <;> simp

/-- The first failing check is the one reported. -/
theorem check_orElse_eq_some {a b : Option Violation} {v : Violation} :
    (a <|> b) = some v ↔ a = some v ∨ (a = none ∧ b = some v) := by
  cases a <;> simp

theorem check_pass {a b : Option Violation} (h : a = none) : (a <|> b) = b := by subst h; simp

theorem check_fail {a b : Option Violation} {v : Violation} (h : a = some v) : (a <|> b) = some v := by
  subst h; simp

theorem ElementType.legal_iff (e : ElementType) (w : Word) : e.legal w = true ↔ w.toNat ≤ e.maxWord := by
  simp [ElementType.legal]

/-- The element check passes exactly when every word is legal (20_memory.md R64). -/
theorem State.checkElements_eq_none {s : State} {e : ElementType} {b : Buffer} {n : Nat} :
    s.checkElements e b n = none ↔ AllAtMost s b n e.maxWord := by
  unfold State.checkElements
  split
  · rename_i h
    rw [List.findIdx?_eq_none_iff] at h
    refine ⟨fun _ k hk => ?_, fun _ => rfl⟩
    have := h (s.word b k) (List.mem_map_of_mem (List.mem_range.2 hk))
    simpa [ElementType.legal] using this
  · rename_i k h
    refine ⟨fun h' => (Option.some_ne_none _ h').elim, fun h' => ?_⟩
    obtain ⟨hk, hbad, -⟩ := List.findIdx?_eq_some_iff_getElem.1 h
    have := h' k (by simpa using hk)
    rw [State.getElem_words] at hbad
    simp [ElementType.legal] at hbad
    omega

/-- The element check reports the first illegal word (20_memory.md R64). -/
theorem State.checkElements_eq_some {s : State} {e : ElementType} {b : Buffer} {n k : Nat}
    (h : FirstAbove s b n e.maxWord k) : s.checkElements e b n = some ⟨e.fault, elementInfo b k⟩ := by
  have hidx : (s.words b n).findIdx? (fun w => !e.legal w) = some k := by
    rw [List.findIdx?_eq_some_iff_getElem]
    refine ⟨by simpa using h.1, ?_, fun j hj => ?_⟩
    · rw [State.getElem_words]
      have := h.2.1
      simp [ElementType.legal]
      omega
    · rw [State.getElem_words]
      have := h.2.2 j hj
      simpa [ElementType.legal] using this
  rw [State.checkElements, hidx]

/-- Whatever the element check reports is about some word, with the element type's fault. -/
theorem State.checkElements_cases (s : State) (e : ElementType) (b : Buffer) (n : Nat) :
    s.checkElements e b n = none ∨ ∃ k, s.checkElements e b n = some ⟨e.fault, elementInfo b k⟩ := by
  unfold State.checkElements
  split
  · exact .inl rfl
  · rename_i k _
    exact .inr ⟨k, rfl⟩

/-! ### The execution template -/

section
variable (s : State) (i : Instr) {check : Option Violation} (commit : State → State) (flags : State → FlagValues)

theorem State.command_pass (h : check = none) :
    s.command i check commit flags = .next (((commit s).setFlags (flags s)).answer (.writeDone .okay)) := by
  subst h; rfl

theorem State.command_fail {v : Violation} (h : check = some v) :
    s.command i check commit flags = .next (s.raise (encode i) v.fault v.info) := by
  subst h; rfl

/-- Everything a command can do: raise its first failing check, or commit. -/
theorem State.command_cases {t : State} (h : s.command i check commit flags = .next t) :
    (∃ v, check = some v ∧ t = s.raise (encode i) v.fault v.info) ∨
      (check = none ∧ t = ((commit s).setFlags (flags s)).answer (.writeDone .okay)) := by
  cases check with
  | none => exact .inr ⟨rfl, (Host.Outcome.next.inj h).symm⟩
  | some v => exact .inl ⟨v, rfl, (Host.Outcome.next.inj h).symm⟩

/-- A command always answers a next state. -/
theorem State.command_next : ∃ t, s.command i check commit flags = .next t := by
  cases check <;> exact ⟨_, rfl⟩

end

/-! ### Results -/

theorem SameHost.refl (s : State) : SameHost s s := ⟨rfl, rfl, rfl⟩

/-- `raise` records the fault and nothing else (60_exceptions.md R266). -/
theorem State.raise_recorded (s : State) (w : Word) (f : Fault) (info : Word) :
    FaultRecorded s (s.raise w f info) w f info where
  sameHost := ⟨rfl, rfl, rfl⟩
  err := State.setErr_err s true
  errcode := by
    apply BitVec.eq_of_toNat_eq
    rw [State.raise_errcode, toNat_byteWord, BitVec.toNat_ofNat, Nat.mod_eq_of_lt (lt_trans f.code.isLt (by omega))]
  errcmd := rfl
  errinfo := rfl
  trunc := State.setErr_trunc s true
  wf := State.setErr_wellFormedFlag s true
  reserved := State.setErr_reserved s true
  reply := rfl
  regs := by
    intro r hr
    cases r <;> first | exact absurd (by decide) hr | simp [State.readReg]
  words := fun b i => by simp

/-- A check that fails makes the command raise. -/
theorem State.command_raises {s : State} {i : Instr} {check : Option Violation} {commit : State → State}
    {flags : State → FlagValues} {f : Fault} {info : Word} (h : check = some ⟨f, info⟩) :
    ∃ t, s.command i check commit flags = .next t ∧ FaultRecorded s t (encode i) f info :=
  ⟨_, State.command_fail s i commit flags h, State.raise_recorded s _ f info⟩

/-- A scalar command whose checks pass leaves its value in `RES`. -/
theorem State.command_scalar {s : State} {i : Instr} {check : Option Violation} {v : Word} (f : State → Word)
    (h : check = none) (hv : f s = v) :
    ∃ t, s.command i check (fun s => s.setRes (f s)) = .next t ∧ ScalarResult s t v := by
  subst hv
  refine ⟨_, State.command_pass s i _ _ h, ⟨⟨rfl, rfl, rfl⟩, ?_, ?_, ?_, ?_, rfl⟩, rfl, ?_, fun b i => by simp⟩
  · exact State.setFlags_err (s.setRes (f s)) {}
  · exact State.setFlags_trunc (s.setRes (f s)) {}
  · exact State.setFlags_wellFormedFlag (s.setRes (f s)) {}
  · exact State.setFlags_reserved (s.setRes (f s)) {}
  · intro r hr
    cases r <;> first | exact absurd (by decide) hr | simp [State.readReg]

/-- The frame of a sequence result, the flags and the response given. -/
theorem State.outSequence_frame (s : State) (n : Nat) (f : Nat → Word) (fl : FlagValues) (hn : n ≤ 2 ^ 20) :
    OutputFrame s (((s.outSequence n f).setFlags fl).answer (.writeDone .okay)) 0 0 n fl where
  completed := ⟨⟨rfl, rfl, rfl⟩, State.setFlags_err (s.outSequence n f) fl, State.setFlags_trunc (s.outSequence n f) fl,
    State.setFlags_wellFormedFlag (s.outSequence n f) fl, State.setFlags_reserved (s.outSequence n f) fl, rfl⟩
  orows := rfl
  ocols := rfl
  olen := by rw [State.answer_olen, State.setFlags_olen, State.outSequence_olen, toNat_natWord_of_le hn]
  regs := by
    intro r hr
    cases r <;> first | exact absurd (by decide) hr | simp [State.readReg]
  words := fun b hb i => by simp [State.outSequence_word, hb]
  tail := fun i hi => by
    rw [State.answer_word, State.setFlags_word, State.outSequence_word, if_neg (by omega)]

/-- The frame of an image result, the flags and the response given. -/
theorem State.outImage_frame (s : State) (rows cols : Word) (f : Nat → Word) (fl : FlagValues)
    (hn : rows.toNat * cols.toNat ≤ 2 ^ 20) :
    OutputFrame s (((s.outImage rows cols f).setFlags fl).answer (.writeDone .okay)) rows cols
      (rows.toNat * cols.toNat) fl where
  completed := ⟨⟨rfl, rfl, rfl⟩, State.setFlags_err (s.outImage rows cols f) fl,
    State.setFlags_trunc (s.outImage rows cols f) fl, State.setFlags_wellFormedFlag (s.outImage rows cols f) fl,
    State.setFlags_reserved (s.outImage rows cols f) fl, rfl⟩
  orows := rfl
  ocols := rfl
  olen := by rw [State.answer_olen, State.setFlags_olen, State.outImage_olen, toNat_natWord_of_le hn]
  regs := by
    intro r hr
    cases r <;> first | exact absurd (by decide) hr | simp [State.readReg]
  words := fun b hb i => by simp [State.outImage_word, hb]
  tail := fun i hi => by
    rw [State.answer_word, State.setFlags_word, State.outImage_word, if_neg (by omega)]

/-- A command whose checks pass and whose commit is a sequence result leaves that sequence in OBUF. -/
theorem State.command_sequence {s : State} {i : Instr} {check : Option Violation} (n : State → Nat)
    (f : State → Nat → Word) (fl : State → FlagValues) {elem : Nat → Word} (h : check = none) (hn : n s ≤ 2 ^ 20)
    (he : ∀ k < n s, f s k = elem k) :
    ∃ t, s.command i check (fun s => s.outSequence (n s) (f s)) fl = .next t ∧ OutputFrame s t 0 0 (n s) (fl s) ∧
      ∀ k < n s, t.word .obuf k = elem k := by
  refine ⟨_, State.command_pass s i _ _ h, State.outSequence_frame s _ _ _ hn, fun k hk => ?_⟩
  rw [State.answer_word, State.setFlags_word, State.outSequence_word, if_pos ⟨rfl, hk⟩, he k hk]

/-- Cell (r, c) of a row-major image lies inside it. -/
theorem cell_lt {rows cols r c : Nat} (hr : r < rows) (hc : c < cols) : r * cols + c < rows * cols := by
  calc r * cols + c < r * cols + cols := by omega
    _ = (r + 1) * cols := by ring
    _ ≤ rows * cols := Nat.mul_le_mul_right _ hr

/-- Element `r * cols + c` of a row-major image is cell (r, c) (20_memory.md R61). -/
theorem rowMajor_cell {cols r c : Nat} (hc : c < cols) (cell : Nat → Nat → Word) :
    rowMajor cols cell (r * cols + c) = cell r c := by
  have h0 : 0 < cols := by omega
  rw [rowMajor, Nat.add_comm, Nat.add_mul_div_right _ _ h0, Nat.div_eq_of_lt hc, Nat.zero_add,
    Nat.add_mul_mod_self_right, Nat.mod_eq_of_lt hc]

/-- A command whose checks pass and whose commit is an image result leaves that image in OBUF. -/
theorem State.command_image {s : State} {i : Instr} {check : Option Violation} {commit : State → State} (rows cols : Word)
    (f : Nat → Word) (fl : State → FlagValues) {cell : Nat → Nat → Word} (h : check = none)
    (hc : commit s = s.outImage rows cols f) (hn : rows.toNat * cols.toNat ≤ 2 ^ 20)
    (he : ∀ r < rows.toNat, ∀ c < cols.toNat, f (r * cols.toNat + c) = cell r c) :
    ∃ t, s.command i check commit fl = .next t ∧ OutputFrame s t rows cols (rows.toNat * cols.toNat) (fl s) ∧
      ∀ r < rows.toNat, ∀ c < cols.toNat, t.word .obuf (r * cols.toNat + c) = cell r c := by
  refine ⟨_, State.command_pass s i commit _ h, ?_, fun r hr c hc' => ?_⟩
  · rw [hc]
    exact State.outImage_frame s _ _ _ _ hn
  · rw [State.answer_word, State.setFlags_word, hc, State.outImage_word, if_pos ⟨rfl, cell_lt hr hc'⟩, he r hr c hc']

/-- The words a plain LSB embedding writes: bit 0 is the payload's, the others stay (43_steganography.md R190). -/
theorem getLsbD_setLsb (v : Word) (b : Bool) (i : Nat) : (setLsb v b).getLsbD i = if i = 0 then b else v.getLsbD i :=
  getLsbD_setBit v b 0 i (by omega)

end Sys2Proof.Machine
end

