-- ==== Sys2Proof/Laws/PerInstr.lean ====
section
/-! SUPPORT. A law of every command, one lemma for each: the low byte of its word is its opcode (30_encoding.md R91). -/

namespace Sys2Proof.Laws

/-- Bits 7:0 of the command's word are its opcode (30_encoding.md R91). -/
def EncodedOpcode.Statement (i : Instr) : Prop := (opcodeOf (encode i)).toNat = i.opcode

/-- A word made of an opcode and a field has that opcode in bits 7:0. -/
theorem opcodeOf_field (op field : Nat) (h : op < 256) :
    (opcodeOf (BitVec.ofNat 32 (op + 256 * field))).toNat = op := by
  simp only [opcodeOf, BitVec.extractLsb'_toNat, BitVec.toNat_ofNat, Nat.shiftRight_zero]
  omega

theorem opcode_lt (i : Instr) : i.opcode < 256 := by cases i <;> simp [Instr.opcode]

theorem EncodedOpcode.setbit (pos : BitVec 8) (bit : Bool) : EncodedOpcode.Statement (.setbit pos bit) := opcodeOf_field _ _ (opcode_lt _)
theorem EncodedOpcode.getbit (pos : BitVec 8) : EncodedOpcode.Statement (.getbit pos) := opcodeOf_field _ _ (opcode_lt _)
theorem EncodedOpcode.b2bits : EncodedOpcode.Statement .b2bits := opcodeOf_field _ _ (opcode_lt _)
theorem EncodedOpcode.bits2b : EncodedOpcode.Statement .bits2b := opcodeOf_field _ _ (opcode_lt _)
theorem EncodedOpcode.unpack : EncodedOpcode.Statement .unpack := opcodeOf_field _ _ (opcode_lt _)
theorem EncodedOpcode.pack : EncodedOpcode.Statement .pack := opcodeOf_field _ _ (opcode_lt _)
theorem EncodedOpcode.compose : EncodedOpcode.Statement .compose := opcodeOf_field _ _ (opcode_lt _)
theorem EncodedOpcode.extract (ch : Channel) : EncodedOpcode.Statement (.extract ch) := opcodeOf_field _ _ (opcode_lt _)
theorem EncodedOpcode.gray : EncodedOpcode.Statement .gray := opcodeOf_field _ _ (opcode_lt _)
theorem EncodedOpcode.binz (thr : BitVec 16) : EncodedOpcode.Statement (.binz thr) := opcodeOf_field _ _ (opcode_lt _)
theorem EncodedOpcode.img2gray : EncodedOpcode.Statement .img2gray := opcodeOf_field _ _ (opcode_lt _)
theorem EncodedOpcode.img2bin (thr : BitVec 16) : EncodedOpcode.Statement (.img2bin thr) := opcodeOf_field _ _ (opcode_lt _)
theorem EncodedOpcode.gray2img : EncodedOpcode.Statement .gray2img := opcodeOf_field _ _ (opcode_lt _)
theorem EncodedOpcode.bin2img : EncodedOpcode.Statement .bin2img := opcodeOf_field _ _ (opcode_lt _)
theorem EncodedOpcode.embedBits : EncodedOpcode.Statement .embedBits := opcodeOf_field _ _ (opcode_lt _)
theorem EncodedOpcode.revealBits : EncodedOpcode.Statement .revealBits := opcodeOf_field _ _ (opcode_lt _)
theorem EncodedOpcode.embedBin : EncodedOpcode.Statement .embedBin := opcodeOf_field _ _ (opcode_lt _)
theorem EncodedOpcode.revealBin : EncodedOpcode.Statement .revealBin := opcodeOf_field _ _ (opcode_lt _)
theorem EncodedOpcode.embedGray (thr : BitVec 16) : EncodedOpcode.Statement (.embedGray thr) := opcodeOf_field _ _ (opcode_lt _)
theorem EncodedOpcode.embedColor (thr : BitVec 16) : EncodedOpcode.Statement (.embedColor thr) := opcodeOf_field _ _ (opcode_lt _)
theorem EncodedOpcode.embedText : EncodedOpcode.Statement .embedText := opcodeOf_field _ _ (opcode_lt _)
theorem EncodedOpcode.revealText : EncodedOpcode.Statement .revealText := opcodeOf_field _ _ (opcode_lt _)
theorem EncodedOpcode.caesarEnc (key : BitVec 8) : EncodedOpcode.Statement (.caesarEnc key) := opcodeOf_field _ _ (opcode_lt _)
theorem EncodedOpcode.caesarDec (key : BitVec 8) : EncodedOpcode.Statement (.caesarDec key) := opcodeOf_field _ _ (opcode_lt _)
theorem EncodedOpcode.vigEnc : EncodedOpcode.Statement .vigEnc := opcodeOf_field _ _ (opcode_lt _)
theorem EncodedOpcode.vigDec : EncodedOpcode.Statement .vigDec := opcodeOf_field _ _ (opcode_lt _)
theorem EncodedOpcode.xork (key : BitVec 8) : EncodedOpcode.Statement (.xork key) := opcodeOf_field _ _ (opcode_lt _)
theorem EncodedOpcode.otp : EncodedOpcode.Statement .otp := opcodeOf_field _ _ (opcode_lt _)
theorem EncodedOpcode.cbcEnc : EncodedOpcode.Statement .cbcEnc := opcodeOf_field _ _ (opcode_lt _)
theorem EncodedOpcode.cbcDec : EncodedOpcode.Statement .cbcDec := opcodeOf_field _ _ (opcode_lt _)
theorem EncodedOpcode.move (dst : Dest) : EncodedOpcode.Statement (.move dst) := opcodeOf_field _ _ (opcode_lt _)

end Sys2Proof.Laws
end

