-- ==== Sys2Proof/Laws/Units.lean ====
section
/-! SUPPORT. What the operations that several commands share can do: the size check, the conversions, the two embedding
geometries, the cipher template, MOVE, the byte and bit groupings, XOR-chaining. -/

namespace Sys2Proof.Machine

/-! ### The size check (60_exceptions.md R262) -/

section
variable {s : State} {n : Nat}

theorem State.checkSize_pass (h : n ≤ s.cfg.bufw) : s.checkSize n = none := require_pos _ _ h

theorem State.checkSize_fail (h : s.cfg.bufw < n) : s.checkSize n = some ⟨.size, 0⟩ := require_neg _ _ (by omega)

theorem State.checkSize_eq_none : s.checkSize n = none ↔ n ≤ s.cfg.bufw := require_eq_none

end

/-! ### Conversions (42_imageops.md R168, R169) -/

/-- The payload is empty exactly when it has no cells. -/
theorem State.payloadEmpty_iff (s : State) : s.payloadEmpty ↔ s.pn = 0 := by
  have zero (w : Word) : w = 0 ↔ w.toNat = 0 := ⟨fun h => by simp [h], fun h => BitVec.eq_of_toNat_eq h⟩
  rw [State.payloadEmpty, State.pn, Nat.mul_eq_zero, zero, zero]

theorem State.convertImage_empty {s : State} (f : Word → Word) (h : s.pn = 0) :
    s.convertImage f = s.outImage 0 0 fun _ => 0 := if_pos (s.payloadEmpty_iff.2 h)

theorem State.convertImage_nonempty {s : State} (f : Word → Word) (h : s.pn ≠ 0) :
    s.convertImage f = s.outImage s.prows s.pcols fun k => f (s.word .pbuf k) :=
  if_neg fun h' => h (s.payloadEmpty_iff.1 h')

theorem State.checkImage_empty {s : State} (e : ElementType) (h : s.pn = 0) : s.checkImage e = none :=
  if_pos (s.payloadEmpty_iff.2 h)

theorem State.checkImage_nonempty {s : State} (e : ElementType) (h : s.pn ≠ 0) :
    s.checkImage e = s.checkElements e .pbuf s.pn := if_neg fun h' => h (s.payloadEmpty_iff.1 h')

/-! ### Embedding (43_steganography.md R193) -/

theorem State.payloadRows_empty {s : State} (h : s.pn = 0) : s.payloadRows = 0 := if_pos (s.payloadEmpty_iff.2 h)

theorem State.payloadCols_empty {s : State} (h : s.pn = 0) : s.payloadCols = 0 := if_pos (s.payloadEmpty_iff.2 h)

theorem State.payloadRows_nonempty {s : State} (h : s.pn ≠ 0) : s.payloadRows = s.prows.toNat :=
  if_neg fun h' => h (s.payloadEmpty_iff.1 h')

theorem State.payloadCols_nonempty {s : State} (h : s.pn ≠ 0) : s.payloadCols = s.pcols.toNat :=
  if_neg fun h' => h (s.payloadEmpty_iff.1 h')

/-- The flat geometry: cell `k` takes payload bit `k` while there is one. -/
theorem State.embedFlat_word (s : State) (n : Nat) (bit : Nat → Bool) {k : Nat} (hk : k < s.cap) :
    (s.embedFlat n bit).word .obuf k = if k < n then setLsb (s.word .cbuf k) (bit k) else s.word .cbuf k := by
  rw [State.embedFlat, State.outImage_word, if_pos ⟨rfl, hk⟩]
  by_cases h : k < n
  · rw [if_pos (by omega), if_pos h]
  · rw [if_neg (by omega), if_neg h]

/-- The bounding-box geometry: cell (r, c) takes payload cell (r, c) while there is one. -/
theorem State.embedBox_cell (s : State) (pr pc : Nat) (bit : Nat → Bool) {r c : Nat} (hr : r < s.crows.toNat)
    (hc : c < s.ccols.toNat) :
    (s.embedBox pr pc bit).word .obuf (r * s.ccols.toNat + c) =
      if r < pr ∧ c < pc then setLsb (s.word .cbuf (r * s.ccols.toNat + c)) (bit (r * pc + c))
      else s.word .cbuf (r * s.ccols.toNat + c) := by
  rw [State.embedBox, State.outImage_word, if_pos ⟨rfl, cell_lt hr hc⟩, rowMajor_cell hc]

/-- Setting the least significant bit, as the formula of 43_steganography.md R190. -/
theorem setLsb_eq (v : Word) (b : Bool) : setLsb v b = (v &&& 0xFFFFFFFE#32) ||| bitWord b := by simp [setLsb, setBit]

/-! ### Ciphers (44_cipher.md R221, R228) -/

/-- A command of U_CIPH whose checks pass leaves its byte sequence in OBUF. -/
theorem State.cipher_sequence {s : State} {i : Instr} {check : Option Violation} {f : State → Nat → Byte}
    {elem : Nat → Word} (unit : s.cfg.hasCipher = true) (h : check = none) (hn : s.plen.toNat ≤ 2 ^ 20)
    (he : ∀ k < s.plen.toNat, byteWord (f s k) = elem k) :
    ∃ t, s.cipher i check f = .next t ∧ OutputFrame s t 0 0 s.plen.toNat {} ∧
      ∀ k < s.plen.toNat, t.word .obuf k = elem k :=
  State.command_sequence (fun s => s.plen.toNat) _ _ ((check_pass (require_pos _ _ unit)).trans h) hn he

/-- A command of U_CIPH with a failing check raises. -/
theorem State.cipher_raises {s : State} {i : Instr} {check : Option Violation} {g : State → Nat → Byte} {f : Fault}
    {info : Word} (unit : s.cfg.hasCipher = true) (h : check = some ⟨f, info⟩) :
    ∃ t, s.cipher i check g = .next t ∧ FaultRecorded s t (encode i) f info :=
  State.command_raises ((check_pass (require_pos _ _ unit)).trans h)

@[simp] theorem length_chainEncrypt (b : Nat) (plain iv : Nat → Byte) (n : Nat) :
    (chainEncrypt b plain iv n).length = n := by
  induction n with
  | zero => rfl
  | succ n ih => simp [chainEncrypt, ih]

/-- A longer message has the same first ciphertext bytes. -/
theorem getD_chainEncrypt_of_le {b n m k : Nat} (plain iv : Nat → Byte) (h : n ≤ m) (hk : k < n) :
    (chainEncrypt b plain iv m).getD k 0 = (chainEncrypt b plain iv n).getD k 0 := by
  induction m, h using Nat.le_induction with
  | base => rfl
  | succ m hm ih =>
    rw [← ih, chainEncrypt, List.getD_append _ _ _ _ (by rw [length_chainEncrypt]; omega)]

/-! ### MOVE (45_move_control.md R250) -/

/-- The buffer a destination names (30_encoding.md R94). -/
def destBuffer : Dest → Buffer
  | .c => .cbuf
  | .p => .pbuf
  | .k => .kbuf

/-- What MOVE leaves in the buffers. -/
theorem State.moveTo_word (s : State) (d : Dest) (b : Buffer) (k : Nat) :
    (s.moveTo d).word b k = if b = destBuffer d ∧ k < s.olen.toNat then s.word .obuf k else s.word b k := by
  refine (State.word_congr ?_ (by cases d <;> rfl) k).trans
    (State.fill_word s (destBuffer d) b s.olen.toNat (s.word .obuf) k)
  cases d <;> cases b <;> rfl

/-! ### Bytes and bits (41_textcodec.md R140) -/

@[simp] theorem length_bytesToBits (bs : List Byte) : (bytesToBits bs).length = 8 * bs.length := by
  induction bs with
  | nil => rfl
  | cons b bs ih => simp [bytesToBits] at *; omega

/-- Element `8 * j + i` of the bits is bit `7 - i` of byte `j`. -/
theorem getD_bytesToBits (bs : List Byte) (k : Nat) (h : k < 8 * bs.length) :
    (bytesToBits bs).getD k false = (bs.getD (k / 8) 0).getLsbD (7 - k % 8) := by
  induction bs generalizing k with
  | nil => simp at h
  | cons b bs ih =>
    rw [show bytesToBits (b :: bs) = byteToBits b ++ bytesToBits bs by simp [bytesToBits]]
    by_cases hk : k < 8
    · rw [List.getD_append _ _ _ _ (by simpa using hk), List.getD_eq_getElem _ _ (by simpa using hk),
        getElem_byteToBits, Nat.div_eq_of_lt hk, Nat.mod_eq_of_lt hk]
      rfl
    · rw [List.getD_append_right _ _ _ _ (by simp; omega), length_byteToBits, ih]
      · obtain ⟨d, rfl⟩ : ∃ d, k = d + 8 := ⟨k - 8, by omega⟩
        rw [Nat.add_sub_cancel, Nat.add_div_right _ (by norm_num), Nat.add_mod_right]
        rfl
      · simp at h
        omega

@[simp] theorem State.length_bytes (s : State) (b : Buffer) (n : Nat) : (s.bytes b n).length = n := by
  simp [State.bytes]

@[simp] theorem State.length_bits (s : State) (b : Buffer) (n : Nat) : (s.bits b n).length = n := by
  simp [State.bits]

theorem State.getD_bytes (s : State) (b : Buffer) {n k : Nat} (h : k < n) :
    (s.bytes b n).getD k 0 = wordByte (s.word b k) := by simp [State.bytes, State.words, h]

end Sys2Proof.Machine
end

