-- ==== Sys2Proof/Machine/Assembler.lean ====
section
/-! DEFINITION. The command notation of 30_encoding.md R102 and the aliases of R103, read from characters. -/

namespace Sys2Proof.Machine

/-- Why the assembler rejects a line (30_encoding.md R102). -/
inductive AsmError where
  /-- The first word is neither a mnemonic of R96 nor an alias of R103. -/
  | unknownMnemonic
  /-- A missing or an extra operand. -/
  | operandCount
  /-- An operand that is no number or listed name, or does not fit its field. -/
  | badOperand
  deriving DecidableEq, Repr

/-- What follows a mnemonic (30_encoding.md R102), and the command it makes. -/
inductive AsmForm where
  | none (i : Instr)
  | posBit
  | byte (f : BitVec 8 → Instr)
  | channel
  | threshold (f : BitVec 16 → Instr)
  | dest
  | bit (f : Bool → Instr)

/-- The mnemonics of R96 and the aliases of R103, with their forms, in capitals only (DESIGN CHOICE, log 19). -/
def asmTable : List (List Char × AsmForm) :=
  [(['S', 'E', 'T', 'B', 'I', 'T'], .posBit),
   (['G', 'E', 'T', 'B', 'I', 'T'], .byte .getbit),
   (['B', '2', 'B', 'I', 'T', 'S'], .none .b2bits),
   (['B', 'I', 'T', 'S', '2', 'B'], .none .bits2b),
   (['U', 'N', 'P', 'A', 'C', 'K'], .none .unpack),
   (['P', 'A', 'C', 'K'], .none .pack),
   (['C', 'O', 'M', 'P', 'O', 'S', 'E'], .none .compose),
   (['E', 'X', 'T', 'R', 'A', 'C', 'T'], .channel),
   (['G', 'R', 'A', 'Y'], .none .gray),
   (['B', 'I', 'N', 'Z'], .threshold .binz),
   (['I', 'M', 'G', '2', 'G', 'R', 'A', 'Y'], .none .img2gray),
   (['I', 'M', 'G', '2', 'B', 'I', 'N'], .threshold .img2bin),
   (['G', 'R', 'A', 'Y', '2', 'I', 'M', 'G'], .none .gray2img),
   (['B', 'I', 'N', '2', 'I', 'M', 'G'], .none .bin2img),
   (['E', 'M', 'B', 'E', 'D', '_', 'B', 'I', 'T', 'S'], .none .embedBits),
   (['R', 'E', 'V', 'E', 'A', 'L', '_', 'B', 'I', 'T', 'S'], .none .revealBits),
   (['E', 'M', 'B', 'E', 'D', '_', 'B', 'I', 'N'], .none .embedBin),
   (['R', 'E', 'V', 'E', 'A', 'L', '_', 'B', 'I', 'N'], .none .revealBin),
   (['E', 'M', 'B', 'E', 'D', '_', 'G', 'R', 'A', 'Y'], .threshold .embedGray),
   (['E', 'M', 'B', 'E', 'D', '_', 'C', 'O', 'L', 'O', 'R'], .threshold .embedColor),
   (['E', 'M', 'B', 'E', 'D', '_', 'T', 'E', 'X', 'T'], .none .embedText),
   (['R', 'E', 'V', 'E', 'A', 'L', '_', 'T', 'E', 'X', 'T'], .none .revealText),
   (['C', 'A', 'E', 'S', 'A', 'R', '_', 'E', 'N', 'C'], .byte .caesarEnc),
   (['C', 'A', 'E', 'S', 'A', 'R', '_', 'D', 'E', 'C'], .byte .caesarDec),
   (['V', 'I', 'G', '_', 'E', 'N', 'C'], .none .vigEnc),
   (['V', 'I', 'G', '_', 'D', 'E', 'C'], .none .vigDec),
   (['X', 'O', 'R', 'K'], .byte .xork),
   (['O', 'T', 'P'], .none .otp),
   (['C', 'B', 'C', '_', 'E', 'N', 'C'], .none .cbcEnc),
   (['C', 'B', 'C', '_', 'D', 'E', 'C'], .none .cbcDec),
   (['M', 'O', 'V', 'E'], .dest),
   (['S', 'E', 'T', 'L', 'S', 'B'], .bit Instr.setlsb),
   (['G', 'E', 'T', 'L', 'S', 'B'], .none Instr.getlsb),
   (['X', 'O', 'R', 'K', '_', 'D', 'E', 'C'], .byte Instr.xorkDec),
   (['O', 'T', 'P', '_', 'D', 'E', 'C'], .none Instr.otpDec)]

/-- The value of a decimal digit. -/
def decDigit (c : Char) : Option Nat := if '0' ≤ c ∧ c ≤ '9' then some (c.toNat - 48) else none

/-- The value of a hexadecimal digit. DESIGN CHOICE (log 21): R102 does not fix the letter case, and both are taken. -/
def hexDigit (c : Char) : Option Nat :=
  if '0' ≤ c ∧ c ≤ '9' then some (c.toNat - 48)
  else if 'A' ≤ c ∧ c ≤ 'F' then some (c.toNat - 55)
  else if 'a' ≤ c ∧ c ≤ 'f' then some (c.toNat - 87)
  else none

/-- Digits in base `b` after the value `acc`. -/
def digitsFrom (b : Nat) (digit : Char → Option Nat) : Nat → List Char → Option Nat
  | acc, [] => some acc
  | acc, c :: cs =>
    match digit c with
    | some d => digitsFrom b digit (b * acc + d) cs
    | none => none

/-- A number in decimal or `0x` hexadecimal (30_encoding.md R102). DESIGN CHOICE (log 21): leading zeros are taken; the
prefix `0X`, a prefix without digits, a sign and a separator are not. -/
def asmNumber : List Char → Option Nat
  | [] => none
  | ['0', 'x'] => none
  | '0' :: 'x' :: cs => digitsFrom 16 hexDigit 0 cs
  | cs => digitsFrom 10 decDigit 0 cs

/-- A number that fits a field of `bits` bits. -/
def asmField (bits : Nat) (cs : List Char) : Option Nat :=
  match asmNumber cs with
  | some n => if n < 2 ^ bits then some n else none
  | none => none

/-- `ch`: one of `A` `R` `G` `B` or 0 to 3 (30_encoding.md R102); the names in capitals only (log 19). -/
def asmChannel : List Char → Option Channel
  | ['A'] => some .alpha
  | ['R'] => some .red
  | ['G'] => some .green
  | ['B'] => some .blue
  | cs => (asmField 2 cs).map fun n => channelOf (BitVec.ofNat 2 n)

/-- `dst`: one of `C` `P` `K` or 0 to 2 (30_encoding.md R102); the names in capitals only (log 19). -/
def asmDest : List Char → Option Dest
  | ['C'] => some .c
  | ['P'] => some .p
  | ['K'] => some .k
  | cs => (asmField 2 cs).bind fun n => destOf (BitVec.ofNat 2 n)

/-- The value, or a bad operand. -/
def orBad {α : Type} : Option α → Except AsmError α
  | some a => .ok a
  | none => .error .badOperand

/-- The command of a form with these operands (30_encoding.md R102). -/
def assembleForm (form : AsmForm) (ops : List (List Char)) : Except AsmError Instr :=
  match form, ops with
  | .none i, [] => .ok i
  | .posBit, [p, b] => orBad <|
      match asmField 8 p, asmField 1 b with
      | some p, some b => some (.setbit (BitVec.ofNat 8 p) (b == 1))
      | _, _ => none
  | .byte f, [o] => orBad ((asmField 8 o).map fun n => f (BitVec.ofNat 8 n))
  | .channel, [o] => orBad ((asmChannel o).map Instr.extract)
  | .threshold f, [o] => orBad ((asmField 16 o).map fun n => f (BitVec.ofNat 16 n))
  | .dest, [o] => orBad ((asmDest o).map Instr.move)
  | .bit f, [o] => orBad ((asmField 1 o).map fun n => f (n == 1))
  | _, _ => .error .operandCount

/-- Space or tab (DESIGN CHOICE, log 19). -/
def isBlank (c : Char) : Bool := c == ' ' || c == '\t'

/-- The text without blanks at either end. -/
def trimBlanks (cs : List Char) : List Char := ((cs.dropWhile isBlank).reverse.dropWhile isBlank).reverse

/-- The pieces between commas. -/
def splitCommas : List Char → List (List Char)
  | [] => [[]]
  | c :: cs =>
    match c, splitCommas cs with
    | ',', rest => [] :: rest
    | _, [] => [[c]]
    | _, r :: rest => (c :: r) :: rest

/-- The comma-separated operands after a mnemonic; an empty piece between commas counts as an operand (DESIGN CHOICE,
log 19). -/
def asmOperands (cs : List Char) : List (List Char) :=
  if (trimBlanks cs).isEmpty then [] else (splitCommas cs).map trimBlanks

/-- One line: a mnemonic, its operands, and a comment from `;` on; a line without a mnemonic has no command (30_encoding.md
R102; log 19). -/
def assembleLine (line : List Char) : Except AsmError (Option Instr) :=
  let text := trimBlanks (line.takeWhile fun c => c != ';')
  let mnemonic := text.takeWhile fun c => !isBlank c
  if mnemonic.isEmpty then .ok none
  else
    match asmTable.find? fun row => row.1 == mnemonic with
    | none => .error .unknownMnemonic
    | some row =>
      match assembleForm row.2 (asmOperands (text.drop mnemonic.length)) with
      | .ok i => .ok (some i)
      | .error e => .error e

end Sys2Proof.Machine
end

