-- ==== Sys2Proof/Tests/Slice0.lean ====
section
/-! SUPPORT. Tests. `test_…` takes its expected result from the spec: the words of 30_encoding.md R93, R96 and R102, and the
worked example of each command's rule. `witness_…` shows, for the obligation it is named after, states and operands that
meet its hypotheses together, each clause at a boundary of its range. -/

open Sys2Proof Sys2Proof.Machine

namespace Sys2Proof.Tests

/-! ### States the tests build -/

/-- Cells 0, 1, ... of a buffer. -/
def cells (ws : List Word) : Memory := cellsFrom 0 ws

/-- `PBUF[n] = ws`, a sequence (95_test_vectors.md). -/
def withSeq (s : State) (ws : List Word) : State :=
  { s with pbuf := cells ws, plen := natWord ws.length }

/-- `KBUF[n] = ws`. -/
def withKey (s : State) (ws : List Word) : State :=
  { s with kbuf := cells ws, klen := natWord ws.length }

/-- `PBUF(r,c) = ws`, an image. -/
def withImg (s : State) (r c : Word) (ws : List Word) : State := { s with pbuf := cells ws, prows := r, pcols := c }

/-- `CBUF(r,c) = ws`. -/
def withCover (s : State) (r c : Word) (ws : List Word) : State := { s with cbuf := cells ws, crows := r, ccols := c }

/-- The state right after reset with the given transactions to come. -/
def withHost (ts : List Txn) : State := { State.reset with host := ts }

/-- A reset state with a recorded fault. -/
def faulted : State := { State.reset with status := 1, errcode := 1 }

/-- The same instance without U_CIPH. -/
def noCipher : State := State.resetWith { bufw := 8, hasCipher := false } 0 []

/-- What a step's next state shows. -/
def after {α : Type} (o : Host.Outcome State Fault Refusal) (f : State → α) : Option α :=
  match o with
  | .next t => some (f t)
  | .fault _ => none
  | .refused _ => none

/-- `OROWS`, `OCOLS` and the words `OBUF[0:OLEN]`. -/
def output (t : State) : Word × Word × List Word := (t.orows, t.ocols, t.words .obuf t.olen.toNat)

/-- The fault record and the response. -/
def record (t : State) : Word × Word × Word × Option Reply := (t.errcode, t.errcmd, t.errinfo, t.reply)

/-! ### WellFormed -/

/-- A command of U_CIPH is refused without the unit, a command of another unit is not (30_encoding.md R98). -/
theorem test_wf : Instr.wf false (.caesarEnc 3) = false ∧ Instr.wf false .cbcDec = false ∧
    Instr.wf true (.caesarEnc 3) = true ∧ Instr.wf false (.setbit 255 true) = true := by decide

/-! ### Decoding: a word written out for every command -/

theorem test_decode_bit : decode true 0x00010510#32 = .ok (.setbit 5 true) ∧
    decode true 0x0000FF10#32 = .ok (.setbit 255 false) ∧ decode true 0x00001F11#32 = .ok (.getbit 31) ∧
    decode true 0x00000012#32 = .ok .b2bits ∧ decode true 0x00000013#32 = .ok .bits2b := by decide

theorem test_decode_pack : decode true 0x00000020#32 = .ok .unpack ∧ decode true 0x00000021#32 = .ok .pack := by decide

theorem test_decode_img_scalar : decode true 0x00000030#32 = .ok .compose ∧
    decode true 0x00000031#32 = .ok (.extract .alpha) ∧ decode true 0x00000131#32 = .ok (.extract .red) ∧
    decode true 0x00000231#32 = .ok (.extract .green) ∧ decode true 0x00000331#32 = .ok (.extract .blue) ∧
    decode true 0x00000032#32 = .ok .gray ∧ decode true 0x00008033#32 = .ok (.binz 128) := by decide

theorem test_decode_img : decode true 0x00000034#32 = .ok .img2gray ∧
    decode true 0x00FFFF35#32 = .ok (.img2bin 65535) ∧ decode true 0x00000036#32 = .ok .gray2img ∧
    decode true 0x00000037#32 = .ok .bin2img := by decide

theorem test_decode_steg : decode true 0x00000040#32 = .ok .embedBits ∧ decode true 0x00000041#32 = .ok .revealBits ∧
    decode true 0x00000042#32 = .ok .embedBin ∧ decode true 0x00000043#32 = .ok .revealBin ∧
    decode true 0x00008044#32 = .ok (.embedGray 128) ∧ decode true 0x00000645#32 = .ok (.embedColor 6) ∧
    decode true 0x00000046#32 = .ok .embedText ∧ decode true 0x00000047#32 = .ok .revealText := by decide

theorem test_decode_ciph : decode true 0x00000350#32 = .ok (.caesarEnc 3) ∧
    decode true 0x00000351#32 = .ok (.caesarDec 3) ∧ decode true 0x00000052#32 = .ok .vigEnc ∧
    decode true 0x00000053#32 = .ok .vigDec ∧ decode true 0x00002054#32 = .ok (.xork 32) ∧
    decode true 0x00000055#32 = .ok .otp ∧ decode true 0x00000056#32 = .ok .cbcEnc ∧
    decode true 0x00000057#32 = .ok .cbcDec := by decide

theorem test_decode_move : decode true 0x00000060#32 = .ok (.move .c) ∧ decode true 0x00000160#32 = .ok (.move .p) ∧
    decode true 0x00000260#32 = .ok (.move .k) := by decide

/-- Each of the four cases of 30_encoding.md R99 by name. -/
theorem test_decode_illegal : decode true 0x00000000#32 = .error .unassignedOpcode ∧
    decode true 0x000000FF#32 = .error .unassignedOpcode ∧ decode false 0x00000350#32 = .error .unitAbsent ∧
    decode true 0x00011F11#32 = .error .reservedBits ∧ decode true 0x00000112#32 = .error .reservedBits ∧
    decode true 0x01000033#32 = .error .reservedBits ∧ decode true 0x00000360#32 = .error .reservedDest := by decide

/-- The words of the aliases (30_encoding.md R103), and a line of the notation (R102). -/
theorem test_aliases : encode (.setlsb true) = 0x00010010#32 ∧ encode (.setlsb false) = 0x00000010#32 ∧
    encode .getlsb = 0x00000011#32 := by decide

/-! ### One step on the worked example of each rule -/

theorem test_setbit : after (exec (.setbit 5 true) State.reset) State.res = some 0x20 := by decide

theorem test_setbit_pos : after (exec (.setbit 32 true) State.reset) record =
    some (2, 0x00012010, 32, some (.writeDone .cmdErr)) := by decide

theorem test_getbit : after (exec (.getbit 31) { State.reset with a0 := 0x80000000 }) State.res = some 1 := by decide

theorem test_b2bits : after (exec .b2bits { State.reset with a0 := 0x48 }) output =
    some (0, 0, [0, 1, 0, 0, 1, 0, 0, 0]) := by decide

theorem test_bits2b : after (exec .bits2b (withSeq State.reset [0, 1, 0, 0, 1, 0, 0, 0])) State.res = some 0x48 := by
  decide

theorem test_unpack : after (exec .unpack (withSeq State.reset [72, 105])) output =
    some (0, 0, [0, 1, 0, 0, 1, 0, 0, 0, 0, 1, 1, 0, 1, 0, 0, 1]) := by decide

theorem test_pack : after (exec .pack (withSeq State.reset [0, 1, 0, 0, 1, 0, 0, 0, 0, 1, 1, 0, 1, 0, 0, 1])) output =
    some (0, 0, [72, 105]) := by decide

theorem test_compose : after (exec .compose { State.reset with a0 := 255, a1 := 9, a2 := 6, a3 := 3 }) State.res =
    some 0xFF090603 := by decide

theorem test_extract : after (exec (.extract .red) { State.reset with a0 := 0xFF090603 }) State.res = some 9 := by decide

theorem test_gray : after (exec .gray { State.reset with a0 := 0xFF090603 }) State.res = some 6 := by decide

theorem test_binz : after (exec (.binz 128) { State.reset with a0 := 127 }) State.res = some 0 ∧
    after (exec (.binz 128) { State.reset with a0 := 128 }) State.res = some 1 := by decide

theorem test_img2gray : after (exec .img2gray (withImg State.reset 1 2 [0xFF090603, 0x00FFFFFF])) output =
    some (1, 2, [6, 255]) := by decide

theorem test_img2gray_empty : after (exec .img2gray (withImg State.reset 0 0xFFFFFFFF [])) output = some (0, 0, []) := by
  decide

theorem test_img2bin : after (exec (.img2bin 128) (withImg State.reset 1 3 [127, 128, 255])) output =
    some (1, 3, [0, 1, 1]) := by decide

theorem test_gray2img : after (exec .gray2img (withImg State.reset 1 3 [6, 0, 255])) output =
    some (1, 3, [0xFF060606, 0xFF000000, 0xFFFFFFFF]) := by decide

theorem test_bin2img : after (exec .bin2img (withImg State.reset 1 2 [1, 0])) output =
    some (1, 2, [0xFFFFFFFF, 0xFF000000]) := by decide

theorem test_embedBits : after (exec .embedBits (withSeq (withCover State.reset 2 2 [0, 0, 0, 0]) [1, 0, 1])) output =
    some (2, 2, [1, 0, 1, 0]) := by decide

/-- A payload longer than the cover is truncated, not rejected (43_steganography.md R194). -/
theorem test_embedBits_trunc :
    after (exec .embedBits (withSeq (withCover State.reset 1 1 [0x10]) [1, 0, 1])) (fun t => (output t, t.status)) =
      some ((1, 1, [0x11]), 2) := by decide

theorem test_revealBits : after (exec .revealBits (withCover State.reset 2 2 [1, 0, 1, 0])) output =
    some (0, 0, [1, 0, 1, 0]) := by decide

theorem test_embedBin :
    after (exec .embedBin (withImg (withCover State.reset 2 3 [0x10, 0x11, 0x12, 0x13, 0x14, 0x15]) 2 2 [1, 1, 0, 1]))
      output = some (2, 3, [0x11, 0x11, 0x12, 0x12, 0x15, 0x15]) := by decide

/-- The dimension check is on the registers literally, also for an empty payload (43_steganography.md R196). -/
theorem test_embedBin_dim : after (exec .embedBin (withImg (withCover State.reset 2 2 [0, 0, 0, 0]) 0 9 [])) record =
    some (5, 0x42, 0, some (.writeDone .cmdErr)) := by decide

theorem test_revealBin : after (exec .revealBin (withCover State.reset 2 2 [0x11, 0x11, 0x12, 0x13])) output =
    some (2, 2, [1, 1, 0, 1]) := by decide

theorem test_embedGray :
    after (exec (.embedGray 128)
      (withImg (withCover State.reset 2 2 [0xFF000000, 0xFF000001, 0xFF000002, 0xFF000003]) 1 2 [200, 100])) output =
      some (2, 2, [0xFF000001, 0xFF000000, 0xFF000002, 0xFF000003]) := by decide

/-- An empty payload of any shape is first made the canonical (0, 0) (43_steganography.md R198). -/
theorem test_embedGray_empty : after (exec (.embedGray 128) (withImg (withCover State.reset 1 1 [7]) 0 9 [])) output =
    some (1, 1, [7]) := by decide

theorem test_embedColor :
    after (exec (.embedColor 6) (withImg (withCover State.reset 1 1 [0]) 1 1 [0xFF090603])) output = some (1, 1, [1]) ∧
    after (exec (.embedColor 7) (withImg (withCover State.reset 1 1 [0]) 1 1 [0xFF090603])) output = some (1, 1, [0]) := by
  decide

/-- With 12 cells and a 2-byte message, the first 12 bits are embedded (43_steganography.md R200). -/
theorem test_embedText :
    after (exec .embedText (withSeq (withCover State.reset 3 4 (List.replicate 12 0xFF000000)) [72, 105]))
      (fun t => (t.words .obuf 12, t.status)) =
      some ([0xFF000000, 0xFF000001, 0xFF000000, 0xFF000000, 0xFF000001, 0xFF000000, 0xFF000000, 0xFF000000,
        0xFF000000, 0xFF000001, 0xFF000001, 0xFF000000], 6) := by decide

/-- A byte that starts no row is reported with its index (41_textcodec.md R146, 43_steganography.md R200). -/
theorem test_embedText_text : after (exec .embedText (withSeq (withCover State.reset 1 1 [0]) [72, 0xC3, 0x28])) record =
    some (0x0D, 0x46, 1, some (.writeDone .cmdErr)) := by decide

theorem test_revealText :
    after (exec .revealText (withCover State.reset 4 4 [0, 1, 0, 0, 1, 0, 0, 0, 0, 1, 1, 0, 1, 0, 0, 1]))
      (fun t => (output t, t.status)) = some ((0, 0, [72, 105]), 4) := by decide

theorem test_caesarEnc : after (exec (.caesarEnc 3) (withSeq State.reset [72, 105])) output = some (0, 0, [75, 108]) := by
  decide

theorem test_caesarDec : after (exec (.caesarDec 1) (withSeq State.reset [75, 0])) output = some (0, 0, [74, 255]) := by
  decide

theorem test_vigEnc : after (exec .vigEnc (withKey (withSeq State.reset [72, 101, 108, 108, 111]) [1, 255])) output =
    some (0, 0, [73, 100, 109, 107, 112]) := by decide

theorem test_vigDec : after (exec .vigDec (withKey (withSeq State.reset [73, 100, 109, 107, 112]) [1, 255])) output =
    some (0, 0, [72, 101, 108, 108, 111]) := by decide

theorem test_xork : after (exec (.xork 0x20) (withSeq State.reset [72, 105])) output = some (0, 0, [104, 73]) := by decide

theorem test_otp : after (exec .otp (withKey (withSeq State.reset [1, 2, 3]) [255, 0, 3])) output =
    some (0, 0, [254, 2, 0]) := by decide

theorem test_otp_empty : after (exec .otp { State.reset with klen := 1000 }) output = some (0, 0, []) := by decide

theorem test_cbcEnc : after (exec .cbcEnc (withKey (withSeq State.reset [1, 2, 3, 4, 5]) [0x0F, 0xF0])) output =
    some (0, 0, [0x0E, 0xF2, 0x0D, 0xF6, 0x08]) := by decide

theorem test_cbcDec : after (exec .cbcDec (withKey (withSeq State.reset [0x0E, 0xF2, 0x0D, 0xF6]) [0x0F, 0xF0])) output =
    some (0, 0, [1, 2, 3, 4]) := by decide

theorem test_cbcDec_block : after (exec .cbcDec (withKey (withSeq State.reset [1, 2, 3, 4, 5]) [0x0F, 0xF0])) record =
    some (0x0A, 0x57, 5, some (.writeDone .cmdErr)) := by decide

theorem test_move :
    after (exec (.move .c) { State.reset with obuf := cells [1, 0, 1, 0], orows := 2, ocols := 2, olen := 4 })
      (fun t => (t.words .cbuf 4, t.crows, t.ccols)) = some ([1, 0, 1, 0], 2, 2) := by decide

/-- The host's very next transaction runs the placed command (log 1). -/
theorem test_withFetchWord : after (step (State.reset.withFetchWord 32 0x00010510)) State.res = some 0x20 := by decide

theorem test_decodeTableWord : decodeTableWord 8 0x12 = some .b2bits ∧ decodeTableWord 24 0x008035 = some (.img2bin 128) ∧
    decodeTableWord 8 0x14 = none := by decide

/-! ### Witnesses -/

/-- The smallest instance of 00_scope.md R8, with U_CIPH. -/
def small : State := State.resetWith { bufw := 8, hasCipher := true } 0 []

/-- Four cells of cover and eight bits of payload: every size at the limit of `small`. -/
def full : State := withSeq (withCover small 2 4 [0, 1, 2, 3, 4, 5, 6, 7]) [1, 0, 1, 1, 0, 0, 0, 1]

/-- A binary or grey payload of the cover's own shape. -/
def boxed : State := withImg (withCover small 2 2 [8, 9, 10, 11]) 2 2 [1, 0, 0, 1]

theorem witness_encodedCommandDecodesToItself :
    Instr.wf false (.setbit 255 true) = true ∧ Instr.wf true (.xork 255) = true := by decide

theorem witness_legalWordIsTheEncodingOfOneCommand : decode false 0x0001FF10#32 = .ok (.setbit 255 true) ∧
    decode true 0x00FFFF45#32 = .ok (.embedColor 65535) := by decide

/-- Words at the edges of the four cases. -/
theorem witness_illegalWordsAreTheFourCases :
    (IllegalCase true 0x0F ∧ IllegalCase true 0x14 ∧ IllegalCase true 0xFF) ∧ IllegalCase false 0x50 ∧
    IllegalCase false 0x57 ∧ IllegalCase true 0x112 ∧ IllegalCase true 0x80000060 ∧ IllegalCase true 0x360 ∧
    (let s := withHost [.write 4 0x14]; s.err = false ∧ s.host = .write 4#32 0x14 :: []) :=
  ⟨⟨.inl (by unfold UnassignedOpcode; decide), .inl (by unfold UnassignedOpcode; decide),
    .inl (by unfold UnassignedOpcode; decide)⟩, .inr (.inl (by decide)), .inr (.inl (by decide)),
    .inr (.inr (.inl (by decide))), .inr (.inr (.inl (by decide))), .inr (.inr (.inr (by decide))), by decide⟩

theorem witness_cipherUnitIsOptional :
    (0x50 ≤ (0x57#32).toNat % 256 ∧ (0x57#32).toNat % 256 ≤ 0x57) ∧
    ¬(0x50 ≤ (0x4F#32).toNat % 256 ∧ (0x4F#32).toNat % 256 ≤ 0x57) ∧
    ¬(0x50 ≤ (0x58#32).toNat % 256 ∧ (0x58#32).toNat % 256 ≤ 0x57) ∧
    (Instr.unit .otp = .ciph ∧ noCipher.cfg.hasCipher = false) := by decide

theorem witness_stepRunsTheDecodedCommand : let s := withHost [.write 4 0x12, .reset];
    s.err = false ∧ s.host = .write 4#32 0x12 :: [.reset] ∧ decode s.cfg.hasCipher 0x12 = .ok .b2bits := by decide

theorem witness_refusedWhileErrIsSet :
    (let s := { faulted with host := [.write 4 0] }; s.err = true ∧ s.host = .write 4#32 0 :: []) ∧
    (let s := { faulted with host := [.write 3 1] };
      s.err = true ∧ after (step s) State.err = some false) ∧
    (let s := { faulted with host := [.reset] }; s.err = true ∧ after (step s) State.err = some false) := by decide

theorem witness_faultRecordsAndChangesNothingElse :
    (let s := withHost [.write 4 0];
      s.err = false ∧ s.host = .write 4#32 0 :: [] ∧ after (step s) State.err = some true) ∧
    (let s := withHost [.write 4 0x0000FF11];
      s.err = false ∧ s.host = .write 4#32 0x0000FF11 :: [] ∧
        after (step s) (fun t => decide (t.reply ≠ some (.writeDone .okay))) = some true) := by decide

theorem witness_clrErrClearsTheFaultRecord :
    (let s := { faulted with host := [.write 3 0xFFFFFFFF] };
      s.host = .write 3#32 0xFFFFFFFF :: [] ∧ (0xFFFFFFFF#32).getLsbD 0 = true) ∧
    (let s := { faulted with host := [.write 3 0xFFFFFFFE] };
      s.host = .write 3#32 0xFFFFFFFE :: [] ∧ (0xFFFFFFFE#32).getLsbD 0 = false) ∧
    (let s := withHost [.write 3 1];
      s.host = .write 3#32 1 :: [] ∧ s.err = false ∧ s.errcode = 0 ∧ s.errcmd = 0 ∧ s.errinfo = 0) := by decide

theorem witness_resetSatisfiesTheInvariant :
    ({ bufw := 8, hasCipher := false } : Config).Valid ∧ ({ bufw := 2 ^ 20, hasCipher := true } : Config).Valid := by
  decide

/-- A state with a recorded fault and written words has the invariant, and takes a step. -/
theorem witness_stepKeepsTheInvariant :
    let s := { full with
      status := 1, errcode := 13, obuf := [(0, 5), (7, 1)], orows := 2, ocols := 4, olen := 8,
      host := [.write 0x100007 9] }
    s.Inv ∧ after (step s) (fun t => t.word .cbuf 7) = some 9 := by
  refine ⟨⟨by decide, by decide, by decide, by decide, by decide, by decide, fun b => ?_⟩, by decide⟩
  cases b <;> decide

theorem witness_commandsKeepTheirInputs :
    (∃ t, exec .revealBits full = .next t ∧ Instr.unit .revealBits ≠ .move) ∧
    (∃ t, exec (.move .k) full = .next t ∧ Instr.unit (.move .k) = .move) := ⟨⟨_, rfl, by decide⟩, ⟨_, rfl, by decide⟩⟩

theorem witness_flagsAfterEveryCommand :
    full.cfg.Valid ∧ after (exec .embedBits full) State.reply = some (some (.writeDone .okay)) ∧
    after (exec (.getbit 32) full) (fun t => decide (t.reply ≠ some (.writeDone .okay))) = some true := by decide

theorem witness_registerReadsAndWrites :
    (let s := withHost [.read 0x00]; (0x00, 0x4C534501) ∈ readTable s ∧ s.host = .read 0x00 :: []) ∧
    (let s := withHost [.read 0x20]; (0x20, 0) ∈ readTable s ∧ s.host = .read 0x20 :: []) ∧
    (let s := withHost [.write 0x10 5]; (0x10, Reg.a0) ∈ writeTable ∧ s.host = .write 0x10 5 :: []) ∧
    (let s := withHost [.write 0x1D 5]; (0x1D, Reg.klen) ∈ writeTable ∧ s.host = .write 0x1D 5 :: []) := by decide

theorem witness_bufferReadsAndWrites :
    (let s := withHost [.read 0x40003F];
      s.cfg.Valid ∧ 63 < s.cfg.bufw ∧ (0x400000, Buffer.obuf) ∈ windowTable ∧
        s.host = .read (BitVec.ofNat 32 (0x400000 + 63)) :: []) ∧
    (let s := withHost [.write 0x100000 7];
      s.cfg.Valid ∧ 0 < s.cfg.bufw ∧ (0x100000, Buffer.cbuf) ∈ windowTable ∧ Buffer.cbuf ≠ .obuf ∧
        s.host = .write (BitVec.ofNat 32 (0x100000 + 0)) 7 :: []) := by decide

theorem witness_writesToReadOnlyAddressesAreIgnored :
    (let s := withHost [.write 0x20 7]; s.cfg.Valid ∧ s.host = .write 0x20#32 7 :: []) ∧
    (let s := withHost [.write 0x40003F 7];
      s.cfg.Valid ∧ (0x400000 ≤ (0x40003F#32).toNat ∧ (0x40003F#32).toNat < 0x400000 + s.cfg.bufw) ∧
        s.host = .write 0x40003F#32 7 :: []) := by decide

/-- The addresses where mapped and unmapped ones meet. -/
theorem witness_unmappedAddressesAnswerDecErr :
    (Unmapped 64 0x09 ∧ Unmapped 64 0x0F ∧ Unmapped 64 0x15 ∧ Unmapped 64 0x17 ∧ Unmapped 64 0x21 ∧
      Unmapped 64 0x0FFFFF ∧ Unmapped 64 0x100040 ∧ Unmapped 64 0x1FFFFF ∧ Unmapped 64 0x400040 ∧
      Unmapped 64 0xFFFFFFFF) ∧
    (let s := withHost [.read 0x100040]; s.cfg.bufw = 64 ∧ s.host = .read 0x100040#32 :: []) ∧
    (let s := withHost [.write 0x09 1]; s.cfg.bufw = 64 ∧ s.host = .write 0x09#32 1 :: []) := by
  refine ⟨?_, by decide, by decide⟩
  simp [Unmapped, windowTable]

theorem witness_resetClearsEveryRegister :
    (let s := { faulted with host := [.reset], a0 := 7 }; s.host = .reset :: []) ∧ Reg.cmd ∉ [Reg.id, .cap, .bufsz] ∧
    Reg.bufsz ∈ [Reg.id, .cap, .bufsz] ∧
    (let s := { faulted with host := [.reset] }; s.err = true ∧ after (step s) State.err = some false) := by decide

theorem witness_setBitAndGetBitLaws : (0 < 32 ∧ 31 < 32 ∧ 31 ≠ 0) := by decide

theorem witness_byteToBitsIsInvertedByBitsToByte :
    0 < 8 ∧ 7 < 8 ∧ ([] : List Bool).length ≠ 8 ∧ (List.replicate 9 true).length ≠ 8 ∧
    (List.replicate 8 true).length = 8 := by decide

theorem witness_bytesAndBitsRoundTrip : ([] : List Bool).length % 8 = 0 ∧ (List.replicate 16 true).length % 8 = 0 := by
  decide

/-- Both sides of each equivalence occur: rows W1, W5, W9, then a surrogate and a truncated row. -/
theorem witness_firstBadFindsTheFirstIllFormedSubsequence :
    (∀ c ∈ ([[0x7F], [0xED, 0x9F, 0xBF], [0xF4, 0x8F, 0xBF, 0xBF]] : List (List Byte)), MatchesUtf8Row c) ∧
    wellformed [0x7F, 0xED, 0x9F, 0xBF, 0xF4, 0x8F, 0xBF, 0xBF] = true ∧
    TextEncoding.firstBad .utf8 [0x41, 0xED, 0xA0, 0x80] = some 1 ∧
    TextEncoding.firstBad .utf8 [0x41, 0xF0, 0x90, 0x80] = some 1 := by
  refine ⟨by simp [MatchesUtf8Row], by decide, by decide, by decide⟩

theorem witness_setbitWritesOneBitOfA0ToRes : ((31#8).toNat ≤ 31 ∧ 31 < 32) ∧ 31 < (32#8).toNat ∧ 31 < (255#8).toNat := by
  decide

theorem witness_getbitReadsOneBitOfA0 : (31#8).toNat ≤ 31 ∧ 31 < (32#8).toNat := by decide

theorem witness_b2bitsExpandsTheByteInA0 :
    ({ small with a0 := 255 } : State).a0.toNat ≤ 255 ∧ 255 < ({ small with a0 := 256 } : State).a0.toNat := by decide

theorem witness_bits2bPacksEightBitsIntoRes :
    ({ small with plen := 7 } : State).plen.toNat ≠ 8 ∧
    (let s := withSeq small [0, 1, 0, 0, 0, 0, 0, 2]; s.plen.toNat = 8 ∧ FirstAbove s .pbuf 8 1 7) ∧
    (full.plen.toNat = 8 ∧ AllAtMost full .pbuf 8 1) := by decide

theorem witness_unpackWritesTheBitsOfEveryByte :
    (let s := { small with plen := 2 }; s.cfg.Valid ∧ s.cfg.bufw < 8 * s.plen.toNat) ∧
    (let s := withSeq small [256];
      s.cfg.Valid ∧ 8 * s.plen.toNat ≤ s.cfg.bufw ∧ FirstAbove s .pbuf s.plen.toNat 255 0) ∧
    (let s := withSeq small [255];
      s.cfg.Valid ∧ 8 * s.plen.toNat ≤ s.cfg.bufw ∧ AllAtMost s .pbuf s.plen.toNat 255) := by decide

theorem witness_packWritesOneByteForEightBits :
    (let s := { small with plen := 9 }; s.cfg.Valid ∧ s.cfg.bufw < s.plen.toNat) ∧
    (let s := { small with plen := 7 }; s.cfg.Valid ∧ s.plen.toNat ≤ s.cfg.bufw ∧ s.plen.toNat % 8 ≠ 0) ∧
    (let s := withSeq small [0, 1, 0, 0, 0, 0, 0, 2];
      s.cfg.Valid ∧ s.plen.toNat ≤ s.cfg.bufw ∧ s.plen.toNat % 8 = 0 ∧ FirstAbove s .pbuf s.plen.toNat 1 7) ∧
    (full.cfg.Valid ∧ full.plen.toNat ≤ full.cfg.bufw ∧ full.plen.toNat % 8 = 0 ∧
      AllAtMost full .pbuf full.plen.toNat 1) := by decide

theorem witness_composePutsFourChannelsIntoRes :
    255 < ({ small with a0 := 256 } : State).a0.toNat ∧
    (let s := { small with a0 := 255, a1 := 256 }; s.a0.toNat ≤ 255 ∧ 255 < s.a1.toNat) ∧
    (let s := { small with a1 := 255, a2 := 256 }; s.a0.toNat ≤ 255 ∧ s.a1.toNat ≤ 255 ∧ 255 < s.a2.toNat) ∧
    (let s := { small with a2 := 255, a3 := 256 };
      s.a0.toNat ≤ 255 ∧ s.a1.toNat ≤ 255 ∧ s.a2.toNat ≤ 255 ∧ 255 < s.a3.toNat) ∧
    (let s := { small with a0 := 255, a1 := 255, a2 := 255, a3 := 255 };
      s.a0.toNat ≤ 255 ∧ s.a1.toNat ≤ 255 ∧ s.a2.toNat ≤ 255 ∧ s.a3.toNat ≤ 255) := by decide

theorem witness_binzComparesA0WithTheThreshold :
    255 < ({ small with a0 := 256 } : State).a0.toNat ∧ ({ small with a0 := 255 } : State).a0.toNat ≤ 255 := by decide

/-- The four clauses that all conversions share: too large, empty, an illegal element, a legal image. -/
theorem witness_img2grayAveragesEveryPixel :
    (let s := { small with prows := 3, pcols := 3 }; s.cfg.Valid ∧ s.cfg.bufw < s.pn) ∧
    (let s := { small with prows := 0, pcols := 9 }; s.cfg.Valid ∧ s.pn = 0) ∧
    (let s := { small with prows := 2, pcols := 4 }; s.cfg.Valid ∧ s.pn ≤ s.cfg.bufw ∧ s.pn ≠ 0) := by decide

theorem witness_img2binComparesEveryGreyWithTheThreshold :
    (let s := { small with prows := 3, pcols := 3 }; s.cfg.Valid ∧ s.cfg.bufw < s.pn) ∧
    (let s := { small with prows := 0, pcols := 9 }; s.cfg.Valid ∧ s.pn = 0) ∧
    (let s := withImg small 1 2 [255, 256];
      s.cfg.Valid ∧ s.pn ≤ s.cfg.bufw ∧ s.pn ≠ 0 ∧ FirstAbove s .pbuf s.pn 255 1) ∧
    (let s := withImg small 1 2 [255, 0];
      s.cfg.Valid ∧ s.pn ≤ s.cfg.bufw ∧ s.pn ≠ 0 ∧ AllAtMost s .pbuf s.pn 255) := by decide

theorem witness_gray2imgMakesNeutralOpaquePixels :
    (let s := { small with prows := 3, pcols := 3 }; s.cfg.Valid ∧ s.cfg.bufw < s.pn) ∧
    (let s := { small with prows := 9, pcols := 0 }; s.cfg.Valid ∧ s.pn = 0) ∧
    (let s := withImg small 1 2 [255, 256];
      s.cfg.Valid ∧ s.pn ≤ s.cfg.bufw ∧ s.pn ≠ 0 ∧ FirstAbove s .pbuf s.pn 255 1) ∧
    (let s := withImg small 1 2 [255, 0];
      s.cfg.Valid ∧ s.pn ≤ s.cfg.bufw ∧ s.pn ≠ 0 ∧ AllAtMost s .pbuf s.pn 255) := by decide

theorem witness_bin2imgMakesWhiteAndBlackPixels :
    (let s := { small with prows := 3, pcols := 3 }; s.cfg.Valid ∧ s.cfg.bufw < s.pn) ∧
    (let s := { small with prows := 0, pcols := 0 }; s.cfg.Valid ∧ s.pn = 0) ∧
    (let s := withImg small 1 2 [1, 2];
      s.cfg.Valid ∧ s.pn ≤ s.cfg.bufw ∧ s.pn ≠ 0 ∧ FirstAbove s .pbuf s.pn 1 1) ∧
    (let s := withImg small 1 2 [1, 0];
      s.cfg.Valid ∧ s.pn ≤ s.cfg.bufw ∧ s.pn ≠ 0 ∧ AllAtMost s .pbuf s.pn 1) := by decide

theorem witness_embedBitsSetsTheLowBitsOfTheCover :
    (let s := { small with crows := 3, ccols := 3 }; s.cfg.Valid ∧ s.cfg.bufw < s.cap) ∧
    (let s := { small with crows := 2, ccols := 4, plen := 9 };
      s.cfg.Valid ∧ s.cap ≤ s.cfg.bufw ∧ s.cfg.bufw < s.plen.toNat) ∧
    (let s := { small with crows := 0, ccols := 4 }; s.cfg.Valid ∧ s.cap = 0 ∧ s.plen.toNat ≤ s.cfg.bufw) ∧
    (let s := withSeq full [1, 2];
      s.cfg.Valid ∧ s.cap ≤ s.cfg.bufw ∧ s.plen.toNat ≤ s.cfg.bufw ∧ s.cap ≠ 0 ∧ FirstAbove s .pbuf s.plen.toNat 1 1) ∧
    (full.cfg.Valid ∧ full.cap ≤ full.cfg.bufw ∧ full.plen.toNat ≤ full.cfg.bufw ∧ full.cap ≠ 0 ∧
      AllAtMost full .pbuf full.plen.toNat 1) := by decide

theorem witness_revealBitsReadsTheLowBitOfEveryCell :
    (let s := { small with crows := 3, ccols := 3 }; s.cfg.Valid ∧ s.cfg.bufw < s.cap) ∧
    (full.cfg.Valid ∧ full.cap ≤ full.cfg.bufw) := by decide

theorem witness_embedBinWritesTheBoxOfTheCover :
    (let s := { small with crows := 3, ccols := 3 }; s.cfg.Valid ∧ s.cfg.bufw < s.cap) ∧
    (let s := { full with prows := 3, pcols := 3 }; s.cfg.Valid ∧ s.cap ≤ s.cfg.bufw ∧ s.cfg.bufw < s.pn) ∧
    (let s := { full with prows := 0, pcols := 5 };
      s.cfg.Valid ∧ s.cap ≤ s.cfg.bufw ∧ s.pn ≤ s.cfg.bufw ∧
        ¬(s.prows.toNat ≤ s.crows.toNat ∧ s.pcols.toNat ≤ s.ccols.toNat)) ∧
    (let s := withImg boxed 2 2 [1, 0, 0, 2];
      s.cfg.Valid ∧ s.cap ≤ s.cfg.bufw ∧ s.prows.toNat ≤ s.crows.toNat ∧ s.pcols.toNat ≤ s.ccols.toNat ∧
        FirstAbove s .pbuf s.pn 1 3) ∧
    (boxed.cfg.Valid ∧ boxed.cap ≤ boxed.cfg.bufw ∧ boxed.prows.toNat ≤ boxed.crows.toNat ∧
      boxed.pcols.toNat ≤ boxed.ccols.toNat ∧ AllAtMost boxed .pbuf boxed.pn 1) := by decide

theorem witness_revealBinReadsTheLowBitPlaneOfASquare :
    (let s := { small with crows := 3, ccols := 3 }; s.cfg.Valid ∧ s.cfg.bufw < s.cap) ∧
    (full.cfg.Valid ∧ full.cap ≤ full.cfg.bufw ∧ full.crows ≠ full.ccols) ∧
    (boxed.cfg.Valid ∧ boxed.cap ≤ boxed.cfg.bufw ∧ boxed.crows = boxed.ccols) := by decide

theorem witness_embedGrayWritesTheBoxByThreshold :
    (let s := { small with crows := 3, ccols := 3 }; s.cfg.Valid ∧ s.cfg.bufw < s.cap) ∧
    (let s := { full with prows := 3, pcols := 3 }; s.cfg.Valid ∧ s.cap ≤ s.cfg.bufw ∧ s.cfg.bufw < s.pn) ∧
    (let s := { full with prows := 1, pcols := 5 };
      s.cfg.Valid ∧ s.cap ≤ s.cfg.bufw ∧ s.pn ≤ s.cfg.bufw ∧ s.pn ≠ 0 ∧
        ¬(s.prows.toNat ≤ s.crows.toNat ∧ s.pcols.toNat ≤ s.ccols.toNat)) ∧
    (let s := withImg boxed 2 2 [1, 0, 0, 256];
      s.cfg.Valid ∧ s.cap ≤ s.cfg.bufw ∧ s.prows.toNat ≤ s.crows.toNat ∧ s.pcols.toNat ≤ s.ccols.toNat ∧
        FirstAbove s .pbuf s.pn 255 3) ∧
    (let s := { full with prows := 0, pcols := 9 }; s.cfg.Valid ∧ s.cap ≤ s.cfg.bufw ∧ s.pn = 0) ∧
    (let s := withImg boxed 2 2 [255, 0, 127, 128];
      s.cfg.Valid ∧ s.cap ≤ s.cfg.bufw ∧ s.pn ≠ 0 ∧ s.prows.toNat ≤ s.crows.toNat ∧
        s.pcols.toNat ≤ s.ccols.toNat ∧ AllAtMost s .pbuf s.pn 255) := by decide

theorem witness_embedColorWritesTheBoxByGreyThreshold :
    (let s := { small with crows := 3, ccols := 3 }; s.cfg.Valid ∧ s.cfg.bufw < s.cap) ∧
    (let s := { full with prows := 3, pcols := 3 }; s.cfg.Valid ∧ s.cap ≤ s.cfg.bufw ∧ s.cfg.bufw < s.pn) ∧
    (let s := { full with prows := 1, pcols := 5 };
      s.cfg.Valid ∧ s.cap ≤ s.cfg.bufw ∧ s.pn ≤ s.cfg.bufw ∧ s.pn ≠ 0 ∧
        ¬(s.prows.toNat ≤ s.crows.toNat ∧ s.pcols.toNat ≤ s.ccols.toNat)) ∧
    (let s := { full with prows := 0, pcols := 9 }; s.cfg.Valid ∧ s.cap ≤ s.cfg.bufw ∧ s.pn = 0) ∧
    (boxed.cfg.Valid ∧ boxed.cap ≤ boxed.cfg.bufw ∧ boxed.pn ≠ 0 ∧ boxed.prows.toNat ≤ boxed.crows.toNat ∧
      boxed.pcols.toNat ≤ boxed.ccols.toNat) := by decide

theorem witness_embedTextEmbedsTheBitsOfAWellFormedMessage :
    (let s := { small with crows := 3, ccols := 3 }; s.cfg.Valid ∧ s.cfg.bufw < s.cap) ∧
    (let s := { full with plen := 9 }; s.cfg.Valid ∧ s.cap ≤ s.cfg.bufw ∧ s.cfg.bufw < s.plen.toNat) ∧
    (let s := { small with crows := 0, ccols := 4 }; s.cfg.Valid ∧ s.cap = 0 ∧ s.plen.toNat ≤ s.cfg.bufw) ∧
    (let s := withSeq full [72, 256];
      s.cfg.Valid ∧ s.cap ≤ s.cfg.bufw ∧ s.plen.toNat ≤ s.cfg.bufw ∧ s.cap ≠ 0 ∧
        FirstAbove s .pbuf s.plen.toNat 255 1) ∧
    (let s := withSeq full [72, 0xC3];
      s.cfg.Valid ∧ s.cap ≤ s.cfg.bufw ∧ s.plen.toNat ≤ s.cfg.bufw ∧ s.cap ≠ 0 ∧ AllAtMost s .pbuf s.plen.toNat 255 ∧
        TextEncoding.firstBad .utf8 (s.bytes .pbuf s.plen.toNat) = some 1) ∧
    (let s := withSeq full [0xC3, 0xA9];
      s.cfg.Valid ∧ s.cap ≤ s.cfg.bufw ∧ s.plen.toNat ≤ s.cfg.bufw ∧ s.cap ≠ 0 ∧ AllAtMost s .pbuf s.plen.toNat 255 ∧
        wellformed (s.bytes .pbuf s.plen.toNat) = true) := by decide

theorem witness_revealTextGroupsTheLowBitsIntoBytes :
    (let s := { small with crows := 3, ccols := 3 }; s.cfg.Valid ∧ s.cfg.bufw < s.cap) ∧
    (full.cfg.Valid ∧ full.cap ≤ full.cfg.bufw ∧ 0 < full.cap / 8) := by decide

/-- Two bytes of data, the greatest values, and a key of two bytes. -/
def ciphered : State := withKey (withSeq small [255, 0]) [1, 255]

theorem ciphered_data : LegalData ciphered := ⟨by decide, by decide, by decide⟩

theorem ciphered_key : LegalKey ciphered := ⟨by decide, by decide⟩

theorem witness_caesarAddsAndSubtractsTheKey :
    (let s := { small with plen := 9 }; s.cfg.Valid ∧ s.cfg.hasCipher = true ∧ s.cfg.bufw < s.plen.toNat) ∧
    (let s := withSeq small [255, 256];
      s.cfg.Valid ∧ s.cfg.hasCipher = true ∧ s.plen.toNat ≤ s.cfg.bufw ∧ FirstAbove s .pbuf s.plen.toNat 255 1) ∧
    (ciphered.cfg.Valid ∧ LegalData ciphered) := ⟨by decide, by decide, by decide, ciphered_data⟩

theorem witness_xorkXorsEveryByteWithTheKey :
    (let s := { small with plen := 9 }; s.cfg.Valid ∧ s.cfg.hasCipher = true ∧ s.cfg.bufw < s.plen.toNat) ∧
    (let s := withSeq small [255, 256];
      s.cfg.Valid ∧ s.cfg.hasCipher = true ∧ s.plen.toNat ≤ s.cfg.bufw ∧ FirstAbove s .pbuf s.plen.toNat 255 1) ∧
    (ciphered.cfg.Valid ∧ LegalData ciphered) := ⟨by decide, by decide, by decide, ciphered_data⟩

/-- The clauses that the keyed commands share. -/
def KeyedClauses : Prop :=
  (let s := { small with plen := 9 }; s.cfg.Valid ∧ s.cfg.hasCipher = true ∧ s.cfg.bufw < s.plen.toNat) ∧
  (let s := { small with klen := 9 };
    s.cfg.Valid ∧ s.cfg.hasCipher = true ∧ s.plen.toNat ≤ s.cfg.bufw ∧ s.cfg.bufw < s.klen.toNat) ∧
  (small.cfg.Valid ∧ small.cfg.hasCipher = true ∧ small.plen.toNat ≤ small.cfg.bufw ∧ small.klen.toNat = 0) ∧
  (let s := withKey (withSeq small [255, 256]) [256, 0];
    s.cfg.Valid ∧ s.cfg.hasCipher = true ∧ s.plen.toNat ≤ s.cfg.bufw ∧ s.klen.toNat ≤ s.cfg.bufw ∧ s.klen.toNat ≠ 0 ∧
      s.plen.toNat % s.klen.toNat = 0 ∧ FirstAbove s .pbuf s.plen.toNat 255 1) ∧
  (let s := withKey ciphered [255, 256];
    s.cfg.Valid ∧ LegalData s ∧ s.klen.toNat ≤ s.cfg.bufw ∧ s.plen.toNat % s.klen.toNat = 0 ∧
      FirstAbove s .kbuf s.klen.toNat 255 1) ∧
  (ciphered.cfg.Valid ∧ LegalData ciphered ∧ LegalKey ciphered ∧ ciphered.klen.toNat ≠ 0 ∧
    ciphered.plen.toNat % ciphered.klen.toNat = 0)

theorem keyedClauses : KeyedClauses :=
  ⟨by decide, by decide, by decide, by decide,
    ⟨by decide, ⟨by decide, by decide, by decide⟩, by decide, by decide, by decide⟩,
    ⟨by decide, ciphered_data, ciphered_key, by decide, by decide⟩⟩

theorem witness_vigEncAddsTheCyclingKey : KeyedClauses := keyedClauses

theorem witness_vigDecSubtractsTheCyclingKey : KeyedClauses := keyedClauses

theorem witness_cbcEncChainsEveryBlockWithTheOneBefore : KeyedClauses := keyedClauses

theorem witness_cbcDecXorsEveryBlockWithTheCipherBefore :
    KeyedClauses ∧
    (let s := { small with plen := 3, klen := 2 };
      s.cfg.Valid ∧ s.cfg.hasCipher = true ∧ s.plen.toNat ≤ s.cfg.bufw ∧ s.klen.toNat ≤ s.cfg.bufw ∧
        s.klen.toNat ≠ 0 ∧ s.plen.toNat % s.klen.toNat ≠ 0) := ⟨keyedClauses, by decide⟩

theorem witness_otpXorsTheDataWithThePad :
    (let s := { small with plen := 9 }; s.cfg.Valid ∧ s.cfg.hasCipher = true ∧ s.cfg.bufw < s.plen.toNat) ∧
    (let s := { small with klen := 9 }; s.cfg.Valid ∧ s.cfg.hasCipher = true ∧ s.plen.toNat = 0) ∧
    (let s := withKey (withSeq small [1, 2]) [1];
      s.cfg.Valid ∧ s.cfg.hasCipher = true ∧ s.plen.toNat ≤ s.cfg.bufw ∧ s.plen.toNat ≠ 0 ∧
        s.klen.toNat ≠ s.plen.toNat) ∧
    (let s := withKey (withSeq small [255, 256]) [1, 2];
      s.cfg.Valid ∧ s.cfg.hasCipher = true ∧ s.plen.toNat ≤ s.cfg.bufw ∧ s.plen.toNat ≠ 0 ∧
        s.klen.toNat = s.plen.toNat ∧ FirstAbove s .pbuf s.plen.toNat 255 1) ∧
    (let s := withKey ciphered [255, 256];
      s.cfg.Valid ∧ LegalData s ∧ s.plen.toNat ≠ 0 ∧ s.klen.toNat = s.plen.toNat ∧
        FirstAbove s .kbuf s.klen.toNat 255 1) ∧
    (ciphered.cfg.Valid ∧ LegalData ciphered ∧ ciphered.plen.toNat ≠ 0 ∧ ciphered.klen.toNat = ciphered.plen.toNat ∧
      LegalKey ciphered) :=
  ⟨by decide, by decide, by decide, by decide,
    ⟨by decide, ⟨by decide, by decide, by decide⟩, by decide, by decide, by decide⟩,
    ⟨by decide, ciphered_data, by decide, by decide, ciphered_key⟩⟩

theorem witness_embeddedBitsAreRevealed :
    full.cfg.Valid ∧ full.cap ≤ full.cfg.bufw ∧ full.cap ≠ 0 ∧ full.plen.toNat ≤ full.cap ∧
    AllAtMost full .pbuf full.plen.toNat 1 := by decide

theorem witness_embeddedBinaryImageIsRevealed :
    boxed.cfg.Valid ∧ boxed.cap ≤ boxed.cfg.bufw ∧ boxed.crows = boxed.ccols ∧ boxed.prows.toNat ≤ boxed.crows.toNat ∧
    boxed.pcols.toNat ≤ boxed.ccols.toNat ∧ AllAtMost boxed .pbuf boxed.pn 1 ∧ 0 < boxed.pn := by decide

theorem witness_embeddedTextIsRevealed :
    let s := withSeq full [72];
    s.cfg.Valid ∧ s.cap ≤ s.cfg.bufw ∧ s.cap ≠ 0 ∧ 8 * s.plen.toNat ≤ s.cap ∧ AllAtMost s .pbuf s.plen.toNat 255 ∧
      wellformed (s.bytes .pbuf s.plen.toNat) = true := by decide

/-- Each of the five embed commands completes on `boxed`, whose cover has four cells. -/
theorem witness_embeddingKeepsAllButTheLowBit :
    (∀ i ∈ [Instr.embedBits, .embedBin, .embedText, .embedGray 128, .embedColor 128],
      after (exec i boxed) State.reply = some (some (.writeDone .okay))) ∧ 3 < boxed.cap := by decide

theorem witness_ciphersAreUndone :
    ciphered.cfg.Valid ∧ LegalData ciphered ∧ LegalKey ciphered ∧ ciphered.klen.toNat ≠ 0 ∧
    ciphered.klen = ciphered.plen ∧ ciphered.plen.toNat % ciphered.klen.toNat = 0 :=
  ⟨by decide, ciphered_data, ciphered_key, by decide, by decide, by decide⟩

theorem witness_embedGrayIsConvertMoveEmbed :
    boxed.cfg.Valid ∧ after (exec (.embedGray 1) boxed) State.reply = some (some (.writeDone .okay)) := by decide

end Sys2Proof.Tests
end

/-! PROOFS. The flags of STATUS after every command (10_state.md R33): each command runs the execution template
with a commit phase that leaves STATUS alone, so `State.command_cases` alone says what becomes of the flags. -/

namespace Sys2Proof.Machine

/-! ### What the commit phase of a command leaves alone -/

/-- The host, the parameters and STATUS are the same: every commit phase keeps them, for the flags are written after it
(30_encoding.md R90, step 5). -/
structure CommitFrame (s t : State) : Prop where
  sameHost : SameHost s t
  status : t.status = s.status

section
variable (s : State)

theorem CommitFrame.setRes (v : Word) : CommitFrame s (s.setRes v) := ⟨⟨rfl, rfl, rfl⟩, rfl⟩

theorem CommitFrame.outSequence (n : Nat) (f : Nat → Word) : CommitFrame s (s.outSequence n f) :=
  ⟨⟨rfl, rfl, rfl⟩, rfl⟩

theorem CommitFrame.outImage (rows cols : Word) (f : Nat → Word) : CommitFrame s (s.outImage rows cols f) :=
  ⟨⟨rfl, rfl, rfl⟩, rfl⟩

theorem CommitFrame.convertImage (f : Word → Word) : CommitFrame s (s.convertImage f) := by
  by_cases h : s.pn = 0
  · rw [State.convertImage_empty f h]
    exact .outImage ..
  · rw [State.convertImage_nonempty f h]
    exact .outImage ..

theorem CommitFrame.moveTo (d : Dest) : CommitFrame s (s.moveTo d) :=
  ⟨⟨State.moveTo_cfg s d, State.moveTo_resets s d, State.moveTo_host s d⟩, State.moveTo_status s d⟩

end

/-! ### What a command can do -/

/-- The values a command that completes writes to `TRUNC` and `WF` (10_state.md R33). -/
def commandFlags : Instr → State → FlagValues
  | .embedBits, s => { trunc := decide (s.cap < s.plen.toNat) }
  | .embedText, s => { trunc := decide (s.cap < 8 * s.plen.toNat), wf := true }
  | .revealText, s => { wf := wellformed s.revealedBytes }
  | _, _ => {}

/-- A command of U_CIPH is the execution template with both flags 0 and a sequence result. -/
theorem State.cipher_eq_command (s : State) (i : Instr) (check : Option Violation) (f : State → Nat → Byte) :
    ∃ check' commit, s.cipher i check f = s.command i check' commit ∧ CommitFrame s (commit s) := by
  rw [State.cipher]
  exact ⟨_, _, rfl, .outSequence s s.plen.toNat fun k => byteWord (f s k)⟩

/-- Every command is the execution template with the flags of R33 and a commit phase that leaves STATUS alone. -/
theorem exec_eq_command (i : Instr) (s : State) :
    ∃ check commit, exec i s = s.command i check commit (commandFlags i) ∧ CommitFrame s (commit s) := by
  cases i with dsimp only [exec]
  | setbit | getbit | bits2b | compose | extract | gray | binz => refine ⟨_, _, rfl, ?_⟩; exact .setRes ..
  | b2bits | unpack | pack | revealBits | revealText => refine ⟨_, _, rfl, ?_⟩; exact .outSequence ..
  | img2gray | img2bin | gray2img | bin2img => refine ⟨_, _, rfl, ?_⟩; exact .convertImage ..
  | embedBits | embedText | embedBin | embedGray | embedColor | revealBin =>
    refine ⟨_, _, rfl, ?_⟩; exact .outImage ..
  | caesarEnc | caesarDec | vigEnc | vigDec | xork | otp | cbcEnc | cbcDec => exact State.cipher_eq_command ..
  | move => refine ⟨_, _, rfl, ?_⟩; exact .moveTo ..

/-- After its commit phase a command has completed with the flags it then writes. -/
theorem CommitFrame.completed {s t : State} (h : CommitFrame s t) (f : FlagValues) :
    Completed s ((t.setFlags f).answer (.writeDone .okay)) f where
  sameHost := ⟨h.sameHost.cfg, h.sameHost.resets, h.sameHost.host⟩
  err := (State.setFlags_err t f).trans (by rw [State.err, State.err, h.status])
  trunc := State.setFlags_trunc t f
  wf := State.setFlags_wellFormedFlag t f
  reserved := (State.setFlags_reserved t f).trans (by rw [h.status])
  reply := rfl

/-- Everything a command can do to STATUS and to the response: record a fault, or complete with the flags of R33. -/
theorem exec_cases {i : Instr} {s t : State} (h : exec i s = .next t) :
    (∃ f info, FaultRecorded s t (encode i) f info) ∨ Completed s t (commandFlags i s) := by
  obtain ⟨check, commit, hexec, hframe⟩ := exec_eq_command i s
  rw [hexec] at h
  rcases State.command_cases s i commit (commandFlags i) h with ⟨v, -, rfl⟩ | ⟨-, rfl⟩
  · exact .inl ⟨v.fault, v.info, State.raise_recorded ..⟩
  · exact .inr (hframe.completed _)

/-! ### The bytes REVEAL_TEXT leaves in OBUF -/

@[simp] theorem wordByte_byteWord (b : Byte) : wordByte (byteWord b) = b := by
  apply BitVec.eq_of_toNat_eq
  rw [toNat_wordByte, toNat_byteWord, Nat.mod_eq_of_lt b.isLt]

@[simp] theorem length_bitsToBytes (bits : List Bool) : (bitsToBytes bits).length = bits.length / 8 := by
  simp [bitsToBytes]

@[simp] theorem State.length_revealedBytes (s : State) : s.revealedBytes.length = s.cap / 8 := by
  rw [State.revealedBytes, length_bitsToBytes, State.length_bits]

/-- A buffer that holds a byte list word by word reads back as that list. -/
theorem State.bytes_eq_of_word {s : State} {b : Buffer} {bs : List Byte}
    (h : ∀ k < bs.length, s.word b k = byteWord (bs.getD k 0)) : s.bytes b bs.length = bs := by
  refine List.ext_getElem (State.length_bytes ..) fun k hk hk' => ?_
  rw [← List.getD_eq_getElem _ 0 hk, State.getD_bytes s b hk', h k hk', wordByte_byteWord,
    List.getD_eq_getElem _ 0 hk']

/-- REVEAL_TEXT leaves the revealed bytes, and nothing else, as its output sequence (43_steganography.md R201). -/
theorem bytes_of_exec_revealText {s t : State} (hv : s.cfg.Valid) (h : exec .revealText s = .next t)
    (hr : t.reply = some (.writeDone .okay)) : t.bytes .obuf t.olen.toNat = s.revealedBytes := by
  rw [exec, execRevealText] at h
  rcases State.command_cases s .revealText _ _ h with ⟨v, -, rfl⟩ | ⟨hpass, -⟩
  · simp at hr
  · have hfits : s.cap / 8 ≤ 2 ^ 20 :=
      (Nat.div_le_self _ _).trans ((State.checkSize_eq_none.1 hpass).trans hv.2)
    obtain ⟨t', h', hout, hwords⟩ := State.command_sequence (i := .revealText) (fun s => s.cap / 8)
      (fun s j => byteWord (s.revealedBytes.getD j 0)) (fun s => { wf := wellformed s.revealedBytes }) hpass hfits
      fun _ _ => rfl
    obtain rfl : t = t' := Host.Outcome.next.inj (h.symm.trans h')
    rw [hout.olen, ← State.length_revealedBytes]
    exact State.bytes_eq_of_word fun k hk => hwords k (by rwa [State.length_revealedBytes] at hk)

/-! ### The obligation -/

/-- Settles O14: a command records a fault, which keeps `TRUNC` and `WF`, or completes with the flags of R33. -/
theorem flagsAfterEveryCommand : Obligations.FlagsAfterEveryCommand := by
  intro i s t hv h
  rcases exec_cases h with ⟨f, info, hfault⟩ | hdone
  · refine ⟨fun hr => ?_, fun _ => ⟨hfault.err, hfault.trunc, hfault.wf⟩⟩
    simp [hfault.reply] at hr
  · refine ⟨fun hr => ⟨?_, ?_, hdone.err⟩, fun hr => absurd hdone.reply hr⟩
    · rw [hdone.trunc]
      cases i <;> rfl
    · rw [hdone.wf]
      cases i with
      | revealText => exact congrArg wellformed (bytes_of_exec_revealText hv h hr).symm
      | _ => rfl

end Sys2Proof.Machine

/-! PROOFS. The host port (20_memory.md R73 to R76): what `locate` answers for each row of the table of 10_state.md
R32 and outside it, then what a step does where the host's next transaction is a read or a write of such an address. -/

namespace Sys2Proof.Machine

/-! ### The registers by the access they allow (10_state.md R32) -/

/-- The registers that hold what the host writes. -/
def Reg.readWrite : List Reg := [.a0, .a1, .a2, .a3, .crows, .ccols, .prows, .pcols, .plen, .klen]

/-- The registers whose writes are ignored. -/
def Reg.readOnly : List Reg :=
  [.id, .cap, .bufsz, .status, .errcode, .errcmd, .errinfo, .res, .orows, .ocols, .olen]

/-- `CTRL` and `CMD` are the two registers whose write is neither stored nor ignored. -/
theorem Reg.ne_control {r : Reg} (h : r ∈ Reg.readWrite ∨ r ∈ Reg.readOnly) : r ≠ .cmd ∧ r ≠ .ctrl := by
  constructor <;> rintro rfl <;> exact absurd h (by decide)

/-! ### The tables of the statements in terms of the model's address map -/

theorem readTable_eq (s : State) : readTable s = Reg.all.map fun r => (regAddr r, s.readReg r) := rfl

theorem writeTable_eq : writeTable = Reg.readWrite.map fun r => (regAddr r, r) := rfl

theorem windowTable_eq : windowTable = [Buffer.cbuf, .pbuf, .kbuf, .obuf].map fun b => (bufferBase b, b) := rfl

theorem base_of_mem_windowTable {row : Nat × Buffer} (h : row ∈ windowTable) : row.1 = bufferBase row.2 := by
  rw [windowTable_eq, List.mem_map] at h
  obtain ⟨b, -, rfl⟩ := h
  rfl

theorem mem_windowTable (b : Buffer) : (bufferBase b, b) ∈ windowTable := by
  rw [windowTable_eq]
  exact List.mem_map.2 ⟨b, by cases b <;> decide, rfl⟩

/-! ### What an address names -/

theorem Reg.address_lt (r : Reg) : r.address < 0x21 := by cases r <;> decide

theorem toNat_regAddr (r : Reg) : (regAddr r).toNat = r.address :=
  toNat_natWord_of_le (r.address_lt.le.trans (by decide))

theorem bufferBase_bounds (b : Buffer) : 0x100000 ≤ bufferBase b ∧ bufferBase b ≤ 0x400000 := by
  cases b <;> decide

theorem toNat_wordAddr (b : Buffer) {i : Nat} (h : i < 2 ^ 20) : (wordAddr b i).toNat = bufferBase b + i := by
  have := bufferBase_bounds b
  rw [wordAddr, toNat_natWord, Nat.mod_eq_of_lt (by omega)]

/-- The addresses of the table differ, so the search for a register's address finds that register. -/
theorem Reg.find?_address (r : Reg) : (Reg.all.find? fun q => q.address == r.address) = some r := by
  cases r <;> rfl

/-- A register's address names that register, whatever the depth of the buffers. -/
theorem locate_regAddr (bufw : Nat) (r : Reg) : locate bufw (regAddr r) = some (.reg r) := by
  rw [locate, toNat_regAddr, Reg.find?_address]

/-- An address that no register has is looked up in the windows. -/
theorem locate_of_not_reg (bufw : Nat) {addr : Word} (h : ∀ r : Reg, r.address ≠ addr.toNat) :
    locate bufw addr = bufferAt bufw addr.toNat := by
  have hnone : (Reg.all.find? fun r => r.address == addr.toNat) = none := by simpa using fun r _ => h r
  rw [locate, hnone]

theorem bufferBase_apart {b b' : Buffer} :
    b' ≠ b → bufferBase b + 2 ^ 20 ≤ bufferBase b' ∨ bufferBase b' + 2 ^ 20 ≤ bufferBase b := by
  cases b <;> cases b' <;> decide

/-- The windows start 2^20 words apart and are at most that deep, so an address is in one of them at most. -/
theorem window_unique {b b' : Buffer} {bufw a : Nat} (hw : bufw ≤ 2 ^ 20)
    (h : bufferBase b ≤ a ∧ a < bufferBase b + bufw) (h' : bufferBase b' ≤ a ∧ a < bufferBase b' + bufw) : b' = b := by
  by_contra hne
  have := bufferBase_apart hne
  omega

theorem bufferAt_eq_none {bufw a : Nat} :
    bufferAt bufw a = none ↔ ∀ b, ¬(bufferBase b ≤ a ∧ a < bufferBase b + bufw) := by
  rw [bufferAt, List.findSome?_eq_none_iff]
  refine ⟨fun h b hb => ?_, fun h b _ => if_neg (h b)⟩
  have hnone := h b (by cases b <;> decide)
  rw [if_pos hb] at hnone
  exact nomatch hnone

theorem bufferAt_base (b : Buffer) {bufw i : Nat} (hw : bufw ≤ 2 ^ 20) (hi : i < bufw) :
    bufferAt bufw (bufferBase b + i) = some (.word b i) := by
  have hin : bufferBase b ≤ bufferBase b + i ∧ bufferBase b + i < bufferBase b + bufw := by omega
  cases hat : bufferAt bufw (bufferBase b + i) with
  | none => exact absurd hin (bufferAt_eq_none.1 hat b)
  | some t =>
    obtain ⟨b', -, hb'⟩ := List.exists_of_findSome?_eq_some hat
    obtain ⟨hin', ht⟩ := Option.ite_none_right_eq_some.1 hb'
    obtain rfl : b' = b := window_unique hw hin hin'
    rw [← ht, Nat.add_sub_cancel_left]

theorem locate_wordAddr (b : Buffer) {bufw i : Nat} (hw : bufw ≤ 2 ^ 20) (hi : i < bufw) :
    locate bufw (wordAddr b i) = some (.word b i) := by
  have haddr := toNat_wordAddr b (hi.trans_le hw)
  have hreg (r : Reg) : r.address ≠ (wordAddr b i).toNat := by
    have := r.address_lt
    have := bufferBase_bounds b
    omega
  rw [locate_of_not_reg bufw hreg, haddr, bufferAt_base b hw hi]

/-- The registers leave the gaps 0x09 to 0x0F and 0x15 to 0x17. -/
theorem Reg.address_not_in_gap (r : Reg) :
    ¬(0x09 ≤ r.address ∧ r.address ≤ 0x0F) ∧ ¬(0x15 ≤ r.address ∧ r.address ≤ 0x17) := by
  cases r <;> decide

/-- `Unmapped`, which says what is outside the table, agrees with the model's address map (20_memory.md R76). -/
theorem locate_of_unmapped {bufw : Nat} {addr : Word} (h : Unmapped bufw addr) : locate bufw addr = none := by
  have hreg (r : Reg) : r.address ≠ addr.toNat := by
    have := r.address_lt
    have := r.address_not_in_gap
    rcases h with h | h | ⟨h, -⟩ <;> omega
  have hwindow (b : Buffer) : ¬(bufferBase b ≤ addr.toNat ∧ addr.toNat < bufferBase b + bufw) := by
    have := bufferBase_bounds b
    rcases h with h | h | ⟨-, h⟩
    · omega
    · omega
    · exact h _ (mem_windowTable b)
  rw [locate_of_not_reg bufw hreg, bufferAt_eq_none.2 hwindow]

/-! ### What the host's transaction taken off the list leaves alone -/

section
variable (s : State) (rest : List Txn)

@[simp] theorem State.taken_cfg : (s.taken rest).cfg = s.cfg := rfl

@[simp] theorem State.taken_readReg (r : Reg) : (s.taken rest).readReg r = s.readReg r := by cases r <;> rfl

@[simp] theorem State.taken_word (b : Buffer) (i : Nat) : (s.taken rest).word b i = s.word b i :=
  State.word_congr (by cases b <;> rfl) rfl i

end

/-! ### What a write of host data changes -/

theorem SameHost.answer {s t : State} (h : SameHost s t) (r : Reply) : SameHost s (t.answer r) :=
  ⟨h.cfg, h.resets, h.host⟩

section
variable (s : State) (v : Word)

/-- A read-write register reads as what was written, every other register as before (20_memory.md R73). -/
theorem State.writeReg_readReg {r : Reg} (h : r ∈ Reg.readWrite) (q : Reg) :
    (s.writeReg v r).readReg q = if q = r then v else s.readReg q := by
  fin_cases h <;> cases q <;> rfl

theorem State.writeReg_sameHost (r : Reg) : SameHost s (s.writeReg v r) := by cases r <;> exact ⟨rfl, rfl, rfl⟩

@[simp] theorem State.writeReg_mem (r : Reg) (b : Buffer) : (s.writeReg v r).mem b = s.mem b := by
  cases r <;> cases b <;> rfl

@[simp] theorem State.writeReg_word (r : Reg) (b : Buffer) (i : Nat) : (s.writeReg v r).word b i = s.word b i :=
  State.word_congr (State.writeReg_mem s v r b) (State.writeReg_sameHost s v r).resets i

theorem State.writeReg_readOnly {r : Reg} (h : r ∈ Reg.readOnly) : s.writeReg v r = s := by fin_cases h <;> rfl

theorem State.writeBuffer_obuf (i : Nat) : s.writeBuffer .obuf i v = s := rfl

theorem State.writeBuffer_input {b : Buffer} (h : b ≠ .obuf) (i : Nat) : s.writeBuffer b i v = s.setWord b i v := by
  cases b with
  | obuf => exact absurd rfl h
  | _ => rfl

theorem State.setWord_sameHost (b : Buffer) (i : Nat) : SameHost s (s.setWord b i v) :=
  ⟨State.setMem_cfg .., State.setMem_resets .., State.setMem_host ..⟩

@[simp] theorem State.setWord_readReg (b : Buffer) (i : Nat) (r : Reg) :
    (s.setWord b i v).readReg r = s.readReg r := State.setMem_readReg ..

end

/-! ### One step at the port, by what the address names -/

section
variable {s : State} {rest : List Txn} {addr data : Word}

theorem step_read (h : s.host = .read addr :: rest) : step s = .next ((s.taken rest).readPort addr) := by
  rw [step, h]
  rfl

theorem step_write (h : s.host = .write addr data :: rest) : step s = (s.taken rest).writePort addr data := by
  rw [step, h]
  rfl

theorem step_read_unmapped (h : s.host = .read addr :: rest) (ha : locate s.cfg.bufw addr = none) :
    step s = .next ((s.taken rest).answer (.readDone .decErr 0)) := by
  rw [step_read h, State.readPort, State.taken_cfg, ha]

theorem step_read_reg {r : Reg} (h : s.host = .read addr :: rest) (ha : locate s.cfg.bufw addr = some (.reg r)) :
    step s = .next ((s.taken rest).answer (.readDone .okay (s.readReg r))) := by
  rw [step_read h, State.readPort, State.taken_cfg, ha]
  dsimp only
  rw [State.taken_readReg]

theorem step_read_word {b : Buffer} {i : Nat} (h : s.host = .read addr :: rest)
    (ha : locate s.cfg.bufw addr = some (.word b i)) :
    step s = .next ((s.taken rest).answer (.readDone .okay (s.word b i))) := by
  rw [step_read h, State.readPort, State.taken_cfg, ha]
  dsimp only
  rw [State.taken_word]

theorem step_write_unmapped (h : s.host = .write addr data :: rest) (ha : locate s.cfg.bufw addr = none) :
    step s = .next ((s.taken rest).answer (.writeDone .decErr)) := by
  rw [step_write h, State.writePort, State.taken_cfg, ha]

/-- `CMD` and `CTRL` apart, a register write is `writeReg` answered with OKAY. -/
theorem step_write_reg {r : Reg} (h : s.host = .write addr data :: rest)
    (ha : locate s.cfg.bufw addr = some (.reg r)) (hr : r ≠ .cmd ∧ r ≠ .ctrl) :
    step s = .next (((s.taken rest).writeReg data r).answer (.writeDone .okay)) := by
  rw [step_write h, State.writePort, State.taken_cfg, ha]
  cases r with
  | cmd => exact absurd rfl hr.1
  | ctrl => exact absurd rfl hr.2
  | _ => rfl

theorem step_write_word {b : Buffer} {i : Nat} (h : s.host = .write addr data :: rest)
    (ha : locate s.cfg.bufw addr = some (.word b i)) :
    step s = .next (((s.taken rest).writeBuffer b i data).answer (.writeDone .okay)) := by
  rw [step_write h, State.writePort, State.taken_cfg, ha]

end

/-! ### The obligations -/

/-- Settles O15: every row of either table is a register at its own address, and `writeReg` writes that one alone. -/
theorem registerReadsAndWrites : Obligations.RegisterReadsAndWrites := by
  constructor
  · intro s rest row hrow h
    rw [readTable_eq, List.mem_map] at hrow
    obtain ⟨r, -, rfl⟩ := hrow
    exact step_read_reg h (locate_regAddr _ r)
  · intro s rest data row hrow h
    rw [writeTable_eq, List.mem_map] at hrow
    obtain ⟨r, hr, rfl⟩ := hrow
    refine ⟨_, step_write_reg h (locate_regAddr _ r) (Reg.ne_control (.inl hr)), rfl,
      (State.writeReg_sameHost ..).answer _, ?_, fun q hq => ?_, fun b i => ?_⟩
    · simp [State.writeReg_readReg _ _ hr]
    · have hne : q ≠ r := by simpa using hq
      simp [State.writeReg_readReg _ _ hr, hne]
    · simp

/-- Settles O16: an address inside a window names its word, and `setWord_word` says what a write of it changes. -/
theorem bufferReadsAndWrites : Obligations.BufferReadsAndWrites := by
  intro s i rest hv hi row hrow
  obtain ⟨base, b⟩ := row
  obtain rfl : base = bufferBase b := base_of_mem_windowTable hrow
  have hloc : locate s.cfg.bufw (wordAddr b i) = some (.word b i) := locate_wordAddr b hv.2 hi
  refine ⟨fun h => step_read_word h hloc, fun data hb h => ⟨_, step_write_word h hloc, rfl, ?_⟩⟩
  rw [State.writeBuffer_input _ _ hb]
  refine ⟨(State.setWord_sameHost ..).answer _, fun r _ => by simp, by simp [State.setWord_word], fun b' j hne => ?_⟩
  have hother : ¬(b' = b ∧ i = j) := by
    rintro ⟨rfl, rfl⟩
    simp at hne
  simp [State.setWord_word, hother]

/-- Settles O17: neither `writeReg` of a read-only register nor `writeBuffer` of OBUF changes the state. -/
theorem writesToReadOnlyAddressesAreIgnored : Obligations.WritesToReadOnlyAddressesAreIgnored := by
  intro s data rest addr hv haddr h
  rcases haddr with hreg | ⟨hlow, hhigh⟩
  · have hmem : addr ∈ Reg.readOnly.map regAddr := hreg
    obtain ⟨r, hr, rfl⟩ := List.mem_map.1 hmem
    rw [step_write_reg h (locate_regAddr _ r) (Reg.ne_control (.inr hr)), State.writeReg_readOnly _ _ hr]
    rfl
  · obtain ⟨i, hi⟩ : ∃ i, addr.toNat = 0x400000 + i := Nat.exists_eq_add_of_le hlow
    have hi' : i < s.cfg.bufw := by omega
    have hword : addr = wordAddr .obuf i :=
      BitVec.eq_of_toNat_eq (hi.trans (toNat_wordAddr .obuf (hi'.trans_le hv.2)).symm)
    rw [hword] at h
    rw [step_write_word h (locate_wordAddr .obuf hv.2 hi'), State.writeBuffer_obuf]
    rfl

/-- Settles O18: `locate` answers `none` outside the table, and the port then answers DECERR alone. -/
theorem unmappedAddressesAnswerDecErr : Obligations.UnmappedAddressesAnswerDecErr := by
  intro s rest addr haddr
  have hloc := locate_of_unmapped haddr
  exact ⟨fun h => step_read_unmapped h hloc, fun data h => step_write_unmapped h hloc⟩

end Sys2Proof.Machine

/-! PROOFS. Which words are no command (30_encoding.md R99) and what a write to `CMD` does where nothing runs: the
decoder row by row of the opcode table, the two equations of `State.writeCmd` that run no command, and what a step does
to `ERR` while it is set (R92). -/

namespace Sys2Proof.Machine

/-! ### The fields of a command word as numbers (30_encoding.md R91, R93) -/

section
variable {w : Word}

theorem toNat_opcodeOf (w : Word) : (opcodeOf w).toNat = w.toNat % 256 := by
  simp [opcodeOf]

theorem toNat_byteField (w : Word) : (byteField w).toNat = w.toNat / 256 % 256 := by
  simp [byteField, Nat.shiftRight_eq_div_pow]

theorem toNat_selField (w : Word) : (selField w).toNat = w.toNat / 256 % 4 := by
  simp [selField, Nat.shiftRight_eq_div_pow]

theorem zeroFrom_iff {n : Nat} : zeroFrom n w = true ↔ w.toNat / 2 ^ n = 0 := by
  rw [zeroFrom, beq_iff_eq, ← BitVec.toNat_inj, BitVec.toNat_ushiftRight, Nat.shiftRight_eq_div_pow]
  rfl

/-- A byte in bits 15:8 with zeros above it is read back by the formats PS and KY. -/
theorem decodeByte_eq_ok {b : BitVec 8} (f : BitVec 8 → Instr) (h : w.toNat / 256 = b.toNat) :
    decodeByte w f = .ok (f b) := by
  have hb := b.isLt
  have hzero : zeroFrom 16 w = true := zeroFrom_iff.2 (by omega)
  have hfield : byteField w = b := BitVec.eq_of_toNat_eq (by rw [toNat_byteField]; omega)
  rw [decodeByte, withZeros, if_pos hzero, hfield]

/-- A position in bits 15:8 with a bit value in bit 16 and zeros above it is read back by the format PB. -/
theorem decodePB_eq_ok {pos : BitVec 8} {bit : Bool} (f : BitVec 8 → Bool → Instr)
    (h : w.toNat / 256 = pos.toNat + 256 * bit.toNat) : decodePB w f = .ok (f pos bit) := by
  have hpos := pos.isLt
  have hbit := bit.toNat_lt
  have hzero : zeroFrom 17 w = true := zeroFrom_iff.2 (by omega)
  have hfield : byteField w = pos := BitVec.eq_of_toNat_eq (by rw [toNat_byteField]; omega)
  have hvalue : w.getLsbD 16 = bit := by
    have hdiv : w.toNat / 2 ^ 16 = bit.toNat := by omega
    rw [BitVec.getLsbD, Nat.testBit_eq_decide_div_mod_eq, hdiv]
    cases bit <;> rfl
  rw [decodePB, withZeros, if_pos hzero, hfield, hvalue]

end

/-! ### Words a format rejects -/

/-- A decoding that gives no command. -/
def Rejects (r : Except Illegal Instr) : Prop := ∀ i, r ≠ .ok i

theorem rejects_error (e : Illegal) : Rejects (.error e) := fun _ h => nomatch h

theorem not_rejects_ok (i : Instr) : ¬ Rejects (.ok i) := fun h => h i rfl

section
variable {hc : Bool} {w : Word}

/-- Case (c) of R99 is the only check of every format but DS. -/
theorem rejects_withZeros (n : Nat) (i : Instr) : Rejects (withZeros n w i) ↔ w.toNat / 2 ^ n ≠ 0 := by
  rw [withZeros, ne_eq, ← zeroFrom_iff]
  split
  · next h => exact iff_of_false (not_rejects_ok i) (not_not_intro h)
  · next h => exact iff_of_true (rejects_error _) h

/-- `dst` = 3 is the only selector with no destination (R94). -/
theorem destOf_eq_none {sel : BitVec 2} : destOf sel = none ↔ sel.toNat = 3 := by
  revert sel
  decide

/-- Format DS adds case (d) of R99. -/
theorem rejects_decodeDS (f : Dest → Instr) :
    Rejects (decodeDS w f) ↔ w.toNat / 2 ^ 10 ≠ 0 ∨ w.toNat / 256 % 4 = 3 := by
  rw [decodeDS, ne_eq, ← zeroFrom_iff, ← toNat_selField, ← destOf_eq_none]
  split
  · next hzero =>
    cases destOf (selField w) with
    | none => exact iff_of_true (rejects_error _) (.inr rfl)
    | some d => exact iff_of_false (not_rejects_ok _) (by simp [hzero])
  · next hzero => exact iff_of_true (rejects_error _) (.inl hzero)

/-- Case (b) of R99 comes before the format. -/
theorem rejects_ifCipher {r : Except Illegal Instr} : Rejects (ifCipher hc r) ↔ hc = false ∨ Rejects r := by
  cases hc with
  | false => exact iff_of_true (rejects_error _) (.inl rfl)
  | true => simp [ifCipher]

/-! ### The decoder by the rows of the opcode table (30_encoding.md R96) -/

/-- The rows of the units that are always present, MOVE apart. -/
def plainRows : List (Nat × Nat) := formatZeros.take 22

/-- The rows of U_CIPH, 0x50 to 0x57. -/
def cipherRows : List (Nat × Nat) := (formatZeros.drop 22).take 8

theorem formatZeros_eq_append : formatZeros = plainRows ++ (cipherRows ++ [(0x60, 10)]) := rfl

theorem opcode_of_mem_plainRows : ∀ row ∈ plainRows, row.1 < 0x50 := by decide

theorem opcode_of_mem_cipherRows : ∀ row ∈ cipherRows, 0x50 ≤ row.1 ∧ row.1 ≤ 0x57 := by decide

/-- No opcode has two rows. -/
theorem formatZeros_unique : ∀ row ∈ formatZeros, ∀ row' ∈ formatZeros, row'.1 = row.1 → row' = row := by decide

theorem decode_of_mem_plainRows {row : Nat × Nat} (h : row ∈ plainRows) (hop : w.toNat % 256 = row.1) :
    ∃ i, decode hc w = withZeros row.2 w i := by
  rw [decode, toNat_opcodeOf, hop]
  fin_cases h <;> exact ⟨_, rfl⟩

theorem decode_of_mem_cipherRows {row : Nat × Nat} (h : row ∈ cipherRows) (hop : w.toNat % 256 = row.1) :
    ∃ i, decode hc w = ifCipher hc (withZeros row.2 w i) := by
  rw [decode, toNat_opcodeOf, hop]
  fin_cases h <;> exact ⟨_, rfl⟩

theorem decode_move (hop : w.toNat % 256 = 0x60) : decode hc w = decodeDS w .move := by
  rw [decode, toNat_opcodeOf, hop]
  rfl

/-- Every arm of `decode` but the last has the opcode of a row. -/
theorem decode_of_no_row (h : ∀ row ∈ formatZeros, row.1 ≠ w.toNat % 256) :
    decode hc w = .error .unassignedOpcode := by
  rw [← toNat_opcodeOf] at h
  rw [decode]
  split
  case h_32 => rfl
  all_goals next hop => exact absurd h (by rw [hop]; decide)

/-- The ranges of case (a) of R99 are the opcodes without a row. -/
theorem unassignedOpcode_iff {op : Nat} (hop : op < 256) :
    UnassignedOpcode op ↔ ∀ row ∈ formatZeros, row.1 ≠ op := by
  simp only [UnassignedOpcode, formatZeros, List.forall_mem_cons, List.not_mem_nil, false_imp_iff, implies_true,
    and_true]
  omega

/-! ### The illegal words are the four cases -/

/-- What is left of the four cases for a word whose opcode has a row. -/
theorem illegalCase_of_row {row : Nat × Nat} (h : row ∈ formatZeros) (hop : w.toNat % 256 = row.1) :
    IllegalCase hc w ↔ (0x50 ≤ row.1 ∧ row.1 ≤ 0x57 ∧ hc = false) ∨ w.toNat / 2 ^ row.2 ≠ 0 ∨
      (row.1 = 0x60 ∧ w.toNat / 256 % 4 = 3) := by
  have hassigned : ¬UnassignedOpcode row.1 := fun hun =>
    (unassignedOpcode_iff (hop ▸ Nat.mod_lt _ (by decide))).1 hun row h rfl
  have hzeros : (∃ row' ∈ formatZeros, row'.1 = row.1 ∧ w.toNat / 2 ^ row'.2 ≠ 0) ↔ w.toNat / 2 ^ row.2 ≠ 0 := by
    refine ⟨fun ⟨row', h', heq, hne⟩ => ?_, fun hne => ⟨row, h, rfl, hne⟩⟩
    rwa [← formatZeros_unique row h row' h' heq]
  rw [IllegalCase, hop, hzeros, or_iff_right hassigned]

/-- A word whose opcode has a row: its unit is always present, is U_CIPH, or is MOVE. -/
theorem rejects_decode_of_row {row : Nat × Nat} (h : row ∈ formatZeros) (hop : w.toNat % 256 = row.1) :
    Rejects (decode hc w) ↔ IllegalCase hc w := by
  rw [illegalCase_of_row h hop]
  rw [formatZeros_eq_append, List.mem_append, List.mem_append, List.mem_singleton] at h
  rcases h with hplain | hcipher | rfl
  · obtain ⟨i, hdecode⟩ := decode_of_mem_plainRows (hc := hc) hplain hop
    have := opcode_of_mem_plainRows row hplain
    rw [hdecode, rejects_withZeros]
    omega
  · obtain ⟨i, hdecode⟩ := decode_of_mem_cipherRows (hc := hc) hcipher hop
    have := opcode_of_mem_cipherRows row hcipher
    have hmove : row.1 ≠ 0x60 := by omega
    rw [hdecode, rejects_ifCipher, rejects_withZeros]
    simp [this, hmove]
  · rw [decode_move hop, rejects_decodeDS]
    simp

/-- 30_encoding.md R99: a word decodes to no command exactly in the cases (a) to (d). -/
theorem rejects_decode_iff (hc : Bool) (w : Word) : Rejects (decode hc w) ↔ IllegalCase hc w := by
  by_cases hrow : ∃ row ∈ formatZeros, row.1 = w.toNat % 256
  · obtain ⟨row, hmem, hop⟩ := hrow
    exact rejects_decode_of_row hmem hop.symm
  · have hnone : ∀ row ∈ formatZeros, row.1 ≠ w.toNat % 256 := fun row hmem hop => hrow ⟨row, hmem, hop⟩
    rw [decode_of_no_row hnone]
    exact iff_of_true (rejects_error _) (.inl ((unassignedOpcode_iff (Nat.mod_lt _ (by decide))).2 hnone))

/-! ### SETBIT and GETBIT decode for every position (30_encoding.md R99) -/

theorem decode_setbit (hop : w.toNat % 256 = 0x10) : decode hc w = decodePB w .setbit := by
  rw [decode, toNat_opcodeOf, hop]
  rfl

theorem decode_getbit (hop : w.toNat % 256 = 0x11) : decode hc w = decodeByte w .getbit := by
  rw [decode, toNat_opcodeOf, hop]
  rfl

theorem decode_setbitWord (hc : Bool) (pos : BitVec 8) (bit : Bool) :
    decode hc (BitVec.ofNat 32 (0x10 + 256 * pos.toNat + 65536 * bit.toNat)) = .ok (.setbit pos bit) := by
  have hpos := pos.isLt
  have hbit := bit.toNat_lt
  have hval := toNat_natWord (0x10 + 256 * pos.toNat + 65536 * bit.toNat)
  rw [natWord, Nat.mod_eq_of_lt (by omega)] at hval
  rw [decode_setbit (by omega)]
  exact decodePB_eq_ok .setbit (by omega)

theorem decode_getbitWord (hc : Bool) (pos : BitVec 8) :
    decode hc (BitVec.ofNat 32 (0x11 + 256 * pos.toNat)) = .ok (.getbit pos) := by
  have hpos := pos.isLt
  have hval := toNat_natWord (0x11 + 256 * pos.toNat)
  rw [natWord, Nat.mod_eq_of_lt (by omega)] at hval
  rw [decode_getbit (by omega)]
  exact decodeByte_eq_ok .getbit (by omega)

end

/-! ### A write to `CMD` that runs no command -/

section
variable {s : State} {w : Word} {rest : List Txn}

@[simp] theorem State.taken_err (s : State) (rest : List Txn) : (s.taken rest).err = s.err := rfl

theorem State.writeCmd_refused (h : s.err = true) : s.writeCmd w = .next s.refuse := if_pos h

theorem State.writeCmd_illegal (h : s.err = false) (hw : Rejects (decode s.cfg.hasCipher w)) :
    s.writeCmd w = .next (s.raise w .illegal 0) := by
  rw [State.writeCmd, h]
  cases hd : decode s.cfg.hasCipher w with
  | ok i => exact absurd hd (hw i)
  | error e => rfl

theorem step_write_cmd (h : s.host = .write 4#32 w :: rest) : step s = (s.taken rest).writeCmd w := by
  have hloc : locate s.cfg.bufw 4#32 = some (.reg .cmd) := locate_regAddr _ .cmd
  rw [step_write h, State.writePort, State.taken_cfg, hloc]

end

/-! ### What keeps `ERR` -/

section
variable (s : State)

theorem State.writeReg_status (v : Word) (r : Reg) : (s.writeReg v r).status = s.status := by cases r <;> rfl

theorem State.writeBuffer_status (b : Buffer) (i : Nat) (v : Word) : (s.writeBuffer b i v).status = s.status := by
  cases b with
  | obuf => rfl
  | cbuf | pbuf | kbuf => exact State.setMem_status ..

theorem State.readPort_status (addr : Word) : (s.readPort addr).status = s.status := by
  rw [State.readPort]
  split <;> rfl

theorem State.err_congr {s t : State} (h : t.status = s.status) : t.err = s.err := by rw [State.err, State.err, h]

end

/-- Only a register's own address names it. -/
theorem eq_regAddr_of_locate {bufw : Nat} {addr : Word} {r : Reg} (h : locate bufw addr = some (.reg r)) :
    addr = regAddr r := by
  by_cases hreg : ∃ q : Reg, q.address = addr.toNat
  · obtain ⟨q, hq⟩ := hreg
    obtain rfl : addr = regAddr q := BitVec.eq_of_toNat_eq (hq.symm.trans (toNat_regAddr q).symm)
    rw [locate_regAddr] at h
    cases h
    rfl
  · rw [locate_of_not_reg bufw (not_exists.1 hreg)] at h
    obtain ⟨b, -, hb⟩ := List.exists_of_findSome?_eq_some h
    split at hb <;> cases hb

/-- A write while `ERR` = 1 leaves it set, `CLRERR` apart (30_encoding.md R92). -/
theorem State.writePort_keeps_err {s t : State} {addr data : Word} (hs : s.err = true)
    (h : s.writePort addr data = .next t) : t.err = true ∨ addr = 3#32 ∧ data.getLsbD 0 = true := by
  rw [State.writePort] at h
  split at h
  · -- an unmapped address
    cases h
    exact .inl hs
  · -- `CMD`
    rw [State.writeCmd_refused hs] at h
    cases h
    exact .inl hs
  · -- `CTRL`
    next hloc =>
    by_cases hdata : data.getLsbD 0 = true
    · exact .inr ⟨eq_regAddr_of_locate hloc, hdata⟩
    · rw [State.writeCtrl, if_neg hdata] at h
      cases h
      exact .inl hs
  · -- any other register
    cases h
    exact .inl ((State.err_congr (s.writeReg_status ..)).trans hs)
  · -- a buffer word
    cases h
    exact .inl ((State.err_congr (s.writeBuffer_status ..)).trans hs)

/-- 30_encoding.md R92: the step out of `ERR` = 1 is `CLRERR` or a reset. -/
theorem onlyClearedByClrErrOrReset : OnlyClearedByClrErrOrReset := by
  intro s t hs h ht
  cases hhost : s.host with
  | nil =>
    rw [step, hhost] at h
    cases h
    simp [hs] at ht
  | cons txn rest =>
    cases txn with
    | read addr =>
      rw [step_read hhost] at h
      cases h
      rw [State.err_congr (State.readPort_status ..), State.taken_err, hs] at ht
      cases ht
    | write addr data =>
      rw [step_write hhost] at h
      rcases State.writePort_keeps_err (State.taken_err s rest ▸ hs) h with herr | ⟨rfl, hdata⟩
      · rw [herr] at ht
        cases ht
      · exact .inl ⟨data, rest, rfl, hdata⟩
    | reset => exact .inr ⟨rest, rfl⟩

/-! ### The obligations -/

/-- Settles O3: the decoder rejects the four cases, `writeCmd` raises for them, and the formats PB and PS accept every
position. -/
theorem illegalWordsAreTheFourCases : Obligations.IllegalWordsAreTheFourCases := by
  refine ⟨rejects_decode_iff, fun s w rest hs hhost hw => ?_, fun hc => .inl (.inl (by decide)),
    decode_setbitWord, decode_getbitWord⟩
  have hrejects : Rejects (decode (s.taken rest).cfg.hasCipher w) := (rejects_decode_iff _ w).2 hw
  exact ⟨_, (step_write_cmd hhost).trans (State.writeCmd_illegal hs hrejects), State.raise_recorded ..⟩

/-- Settles O7: a write to `CMD` is refused before it is decoded, and while `ERR` is set only `CLRERR` and reset
clear it. -/
theorem refusedWhileErrIsSet : Obligations.RefusedWhileErrIsSet :=
  ⟨fun _ _ _ hs hhost => (step_write_cmd hhost).trans (State.writeCmd_refused hs), onlyClearedByClrErrOrReset⟩

end Sys2Proof.Machine

/-! PROOFS. Unit U_BIT (40_bitops.md R122 to R127): the encoding of a command as a row of the opcode table, the checks
of the unit, and the two directions between a byte and its bits in the words of a buffer. -/

namespace Sys2Proof.Machine

/-! ### The encoding of a command (30_encoding.md R93, R99) -/

/-- No operand field is wider than bits 31:8 (30_encoding.md R93). -/
theorem field_lt (i : Instr) : i.field < 2 ^ 24 := by
  cases i with
  | setbit pos bit =>
    have hbit := bit.toNat_lt
    dsimp only [Instr.field]
    omega
  | getbit b | caesarEnc b | caesarDec b | xork b => exact b.isLt.trans (by decide)
  | binz thr | img2bin thr | embedGray thr | embedColor thr => exact thr.isLt.trans (by decide)
  | extract ch => cases ch <;> decide
  | move dst => cases dst <;> decide
  | _ => decide

/-- The opcode and the field do not overlap, so the command's word has their sum as its value. -/
theorem toNat_encode (i : Instr) : (encode i).toNat = i.opcode + 256 * i.field := by
  have hop := Laws.opcode_lt i
  have hfield := field_lt i
  rw [encode, BitVec.toNat_ofNat, Nat.mod_eq_of_lt (by omega)]

/-- A command whose opcode has a row of the table has the encoding of that row; case (c) of R99 is the rest of it. -/
theorem hasEncoding_of_row {i : Instr} {opcode lowZero : Nat} (hop : i.opcode = opcode)
    (hrow : (opcode, lowZero) ∈ formatZeros) : HasEncoding i opcode lowZero i.field := by
  refine ⟨by rw [toNat_encode, hop], fun hc w hw hzeros => (rejects_decode_iff hc w).2 ?_⟩
  exact .inr (.inr (.inl ⟨_, hrow, hw.symm, hzeros⟩))

/-! ### The position check of SETBIT and GETBIT -/

theorem byteWord_eq_ofNat (b : Byte) : byteWord b = BitVec.ofNat 32 b.toNat := (BitVec.ofNat_toNat 32 b).symm

theorem checkPos_pass {pos : BitVec 8} (h : pos.toNat ≤ 31) : checkPos pos = none := require_pos _ _ h

theorem checkPos_fail {pos : BitVec 8} (h : 31 < pos.toNat) :
    checkPos pos = some ⟨.pos, BitVec.ofNat 32 pos.toNat⟩ := by
  rw [checkPos, require_neg _ _ (by omega), byteWord_eq_ofNat]

/-! ### A byte and its bits -/

theorem getLsbD_wordByte (w : Word) {i : Nat} (h : i < 8) : (wordByte w).getLsbD i = w.getLsbD i := by
  simp [wordByte, h]

theorem getD_byteToBits (b : Byte) {i : Nat} (h : i < 8) : (byteToBits b).getD i false = b.getLsbD (7 - i) := by
  rw [List.getD_eq_getElem _ _ (by rwa [length_byteToBits]), getElem_byteToBits]

/-- The value of `n` bits given by index: bit `i` weighs `2 ^ (n - 1 - i)`, the first one most. -/
theorem bitsValue_map_range (f : Nat → Bool) (n : Nat) :
    bitsValue ((List.range n).map f) = ∑ i ∈ Finset.range n, (f i).toNat * 2 ^ (n - 1 - i) := by
  induction n with
  | zero => rfl
  | succ n ih =>
    have hdouble : ∀ i ∈ Finset.range n, (f i).toNat * 2 ^ (n - i) = 2 * ((f i).toNat * 2 ^ (n - 1 - i)) := by
      intro i hi
      have hi := Finset.mem_range.1 hi
      rw [show n - i = n - 1 - i + 1 by omega, pow_succ]
      ring
    rw [List.range_succ, List.map_append, List.map_singleton, bitsValue_append_singleton, ih, Finset.sum_range_succ,
      Nat.add_sub_cancel, Finset.sum_congr rfl hdouble, ← Finset.mul_sum, Nat.sub_self, pow_zero, mul_one]

/-- A legal bit word is its own lowest bit (20_memory.md R64). -/
theorem toNat_getLsb_of_le_one {w : Word} (h : w.toNat ≤ 1) : (getLsb w).toNat = w.toNat := by
  rw [getLsb, getBit, BitVec.getLsbD, Nat.testBit_zero]
  interval_cases w.toNat <;> rfl

/-- Eight legal bit words make the byte of their sum. -/
theorem State.bitsValue_bits {s : State} {b : Buffer} (h : AllAtMost s b 8 1) :
    bitsValue ((s.words b 8).map getLsb) = bitSum fun i => (s.word b i).toNat := by
  rw [State.words, List.map_map, bitsValue_map_range]
  refine Finset.sum_congr rfl fun i hi => ?_
  rw [Function.comp_apply, toNat_getLsb_of_le_one (h i (Finset.mem_range.1 hi))]

/-! ### A command by the check of its execution template (30_encoding.md R90) -/

section
variable {s : State} {i : Instr} {check : Option Violation}

theorem raises_of_check {commit : State → State} {flags : State → FlagValues} {f : Fault} {info : Word}
    (hexec : exec i s = s.command i check commit flags) (h : check = some ⟨f, info⟩) : Raises i s f info := by
  rw [Raises, hexec]
  exact State.command_raises h

theorem yieldsScalar_of_check {f : State → Word} (hexec : exec i s = s.command i check fun s => s.setRes (f s))
    (h : check = none) : YieldsScalar i s (f s) := by
  rw [YieldsScalar, hexec]
  exact State.command_scalar f h rfl

theorem yieldsSequence_of_check {n : State → Nat} {f : State → Nat → Word} {flags : State → FlagValues}
    {elem : Nat → Word} (hexec : exec i s = s.command i check (fun s => s.outSequence (n s) (f s)) flags)
    (h : check = none) (hn : n s ≤ 2 ^ 20) (helem : ∀ k < n s, f s k = elem k) :
    YieldsSequence i s (n s) elem (flags s) := by
  rw [YieldsSequence, hexec]
  exact State.command_sequence n f flags h hn helem

end

/-! ### The commands of U_BIT as execution templates -/

section
variable (s : State)

theorem exec_setbit (pos : BitVec 8) (bit : Bool) : exec (.setbit pos bit) s =
    s.command (.setbit pos bit) (checkPos pos) fun s => s.setRes (setBit s.a0 bit pos.toNat) := rfl

theorem exec_getbit (pos : BitVec 8) : exec (.getbit pos) s =
    s.command (.getbit pos) (checkPos pos) fun s => s.setRes (bitWord (getBit s.a0 pos.toNat)) := rfl

theorem exec_b2bits : exec .b2bits s =
    s.command .b2bits (require (s.a0.toNat ≤ 255) .elem 0) fun s =>
      s.outSequence 8 fun i => bitWord ((byteToBits (wordByte s.a0)).getD i false) := rfl

theorem exec_bits2b : exec .bits2b s =
    s.command .bits2b (require (s.plen.toNat = 8) .len s.plen <|> s.checkElements .bit .pbuf 8) fun s =>
      s.setRes (natWord (bitsValue ((s.words .pbuf 8).map getLsb))) := rfl

end

/-! ### The obligations -/

/-- Settles O25: `getLsbD_setBit` says what the result holds bit by bit, and `checkPos` raises above 31. -/
theorem setbitWritesOneBitOfA0ToRes : Obligations.SetbitWritesOneBitOfA0ToRes := by
  intro s pos bit
  refine ⟨hasEncoding_of_row (i := .setbit pos bit) rfl (by decide), fun h => ?_, fun h => ?_⟩
  · exact ⟨_, yieldsScalar_of_check (exec_setbit s pos bit) (checkPos_pass h),
      fun q _ => getLsbD_setBit s.a0 bit pos.toNat q (by omega)⟩
  · exact raises_of_check (exec_setbit s pos bit) (checkPos_fail h)

/-- Settles O26: the position check of SETBIT, and one bit of A0 as the result. -/
theorem getbitReadsOneBitOfA0 : Obligations.GetbitReadsOneBitOfA0 := by
  intro s pos
  refine ⟨hasEncoding_of_row (i := .getbit pos) rfl (by decide), fun h => ?_, fun h => ?_⟩
  · exact yieldsScalar_of_check (exec_getbit s pos) (checkPos_pass h)
  · exact raises_of_check (exec_getbit s pos) (checkPos_fail h)

/-- Settles O27: element `i` of the sequence is bit `7 - i` of the byte in A0. -/
theorem b2bitsExpandsTheByteInA0 : Obligations.B2bitsExpandsTheByteInA0 := by
  intro s
  refine ⟨hasEncoding_of_row (i := .b2bits) rfl (by decide), fun h => ?_, fun h => ?_⟩
  · refine yieldsSequence_of_check (exec_b2bits s) (require_pos _ _ h) (by norm_num) fun i hi => ?_
    rw [getD_byteToBits _ hi, getLsbD_wordByte _ (by omega), bitWord]
  · exact raises_of_check (exec_b2bits s) (require_neg _ _ (by omega))

/-- Settles O28: the length check comes before the element check, and eight legal bits are summed by their weights. -/
theorem bits2bPacksEightBitsIntoRes : Obligations.Bits2bPacksEightBitsIntoRes := by
  intro s
  refine ⟨hasEncoding_of_row (i := .bits2b) rfl (by decide), fun hlen => ?_, fun hlen k hfirst => ?_,
    fun hlen hlegal => ?_⟩
  · exact raises_of_check (exec_bits2b s) (check_fail (require_neg _ _ hlen))
  · have helem : s.checkElements .bit .pbuf 8 = some ⟨.elem, natWord k⟩ := State.checkElements_eq_some hfirst
    exact raises_of_check (exec_bits2b s) ((check_pass (require_pos _ _ hlen)).trans helem)
  · have helem : s.checkElements .bit .pbuf 8 = none := State.checkElements_eq_none.2 hlegal
    rw [← State.bitsValue_bits hlegal]
    exact yieldsScalar_of_check (exec_bits2b s) ((check_pass (require_pos _ _ hlen)).trans helem)

end Sys2Proof.Machine

/-! PROOFS. Unit U_PACK (41_textcodec.md R142, R143): the elements UNPACK and PACK write, in terms of the words of PBUF,
and the checks of both commands in their order. -/

namespace Sys2Proof.Machine

/-! ### Groups of eight bits in the words of a buffer (41_textcodec.md R140) -/

section
variable (s : State) (b : Buffer) {n : Nat}

/-- Bit `k` of the bytes in a buffer is bit `7 - k mod 8` of word `k div 8`. -/
theorem State.getD_bytesToBits_bytes {k : Nat} (h : k < 8 * n) :
    (bytesToBits (s.bytes b n)).getD k false = (s.word b (k / 8)).getLsbD (7 - k % 8) := by
  rw [getD_bytesToBits _ _ (by rwa [State.length_bytes]), State.getD_bytes s b (by omega),
    getLsbD_wordByte _ (by omega)]

/-- Group `j` of the bits in a buffer is made of the words `8 * j` to `8 * j + 7`. -/
theorem State.take_drop_bits {j : Nat} (h : j < n / 8) :
    ((s.bits b n).drop (8 * j)).take 8 = (List.range 8).map fun i => getLsb (s.word b (8 * j + i)) := by
  refine List.ext_getElem ?_ fun i _ _ => ?_
  · rw [List.length_take, List.length_drop, State.length_bits, List.length_map, List.length_range]
    omega
  · simp [State.bits, State.getElem_words]

/-- Byte `j` of the grouping, zero-extended, is the value of group `j`: eight bits fit a byte. -/
theorem byteWord_getD_bitsToBytes (bits : List Bool) {j : Nat} (h : j < bits.length / 8) :
    byteWord ((bitsToBytes bits).getD j 0) = natWord (bitsValue ((bits.drop (8 * j)).take 8)) := by
  have hbyte : (bitsToBytes bits).getD j 0 = BitVec.ofNat 8 (bitsValue ((bits.drop (8 * j)).take 8)) := by
    simp [bitsToBytes, h]
  have hlt : bitsValue ((bits.drop (8 * j)).take 8) < 2 ^ 8 :=
    (bitsValue_lt _).trans_le (Nat.pow_le_pow_right (by norm_num) (List.length_take_le _ _))
  rw [byteWord_eq_ofNat, hbyte, BitVec.toNat_ofNat, Nat.mod_eq_of_lt hlt, natWord]

/-- Byte `j` of the low bits of a buffer: the first of its eight words is the most significant bit. -/
theorem State.byteWord_getD_bitsToBytes_bits {j : Nat} (h : j < n / 8) :
    byteWord ((bitsToBytes (s.bits b n)).getD j 0)
      = natWord (bitSum fun i => (getLsb (s.word b (8 * j + i))).toNat) := by
  rw [byteWord_getD_bitsToBytes _ (by rwa [State.length_bits]), State.take_drop_bits s b h, bitsValue_map_range]
  rfl

/-- Where the words are legal bits, they are themselves the summands of the byte (20_memory.md R64). -/
theorem State.bitSum_getLsb {j : Nat} (h : j < n / 8) (hlegal : AllAtMost s b n 1) :
    bitSum (fun i => (getLsb (s.word b (8 * j + i))).toNat) = bitSum fun i => (s.word b (8 * j + i)).toNat := by
  refine Finset.sum_congr rfl fun i hi => ?_
  have hi := Finset.mem_range.1 hi
  exact congrArg (· * 2 ^ (7 - i)) (toNat_getLsb_of_le_one (hlegal _ (by omega)))

end

/-! ### The checks of PACK (41_textcodec.md R143) -/

/-- Size and length as PACK requires them leave the element check. -/
theorem State.checkPack_elements {s : State} (hsize : s.plen.toNat ≤ s.cfg.bufw) (hlen : s.plen.toNat % 8 = 0) :
    (s.checkSize s.plen.toNat <|> require (s.plen.toNat % 8 = 0) .len s.plen
      <|> s.checkElements .bit .pbuf s.plen.toNat) = s.checkElements .bit .pbuf s.plen.toNat :=
  (check_pass (State.checkSize_pass hsize)).trans (check_pass (require_pos _ _ hlen))

/-! ### The commands of U_PACK as execution templates -/

section
variable (s : State)

theorem exec_unpack : exec .unpack s =
    s.command .unpack (s.checkSize (8 * s.plen.toNat) <|> s.checkElements .byte .pbuf s.plen.toNat) fun s =>
      s.outSequence (8 * s.plen.toNat) fun k =>
        bitWord ((bytesToBits (s.bytes .pbuf s.plen.toNat)).getD k false) := rfl

theorem exec_pack : exec .pack s =
    s.command .pack
      (s.checkSize s.plen.toNat <|> require (s.plen.toNat % 8 = 0) .len s.plen
        <|> s.checkElements .bit .pbuf s.plen.toNat) fun s =>
      s.outSequence (s.plen.toNat / 8) fun j => byteWord ((bitsToBytes (s.bits .pbuf s.plen.toNat)).getD j 0) := rfl

end

/-! ### The obligations -/

/-- Settles O29: the size check comes before the element check, and element `k` is bit `7 - k mod 8` of word
`k div 8`. -/
theorem unpackWritesTheBitsOfEveryByte : Obligations.UnpackWritesTheBitsOfEveryByte := by
  intro s hv
  refine ⟨hasEncoding_of_row (i := .unpack) rfl (by decide), fun hsize => ?_, fun hsize j hfirst => ?_,
    fun hsize hlegal => ?_⟩
  · exact raises_of_check (exec_unpack s) (check_fail (State.checkSize_fail hsize))
  · have helem : s.checkElements .byte .pbuf s.plen.toNat = some ⟨.elem, natWord j⟩ :=
      State.checkElements_eq_some hfirst
    exact raises_of_check (exec_unpack s) ((check_pass (State.checkSize_pass hsize)).trans helem)
  · have helem : s.checkElements .byte .pbuf s.plen.toNat = none := State.checkElements_eq_none.2 hlegal
    refine yieldsSequence_of_check (exec_unpack s) ((check_pass (State.checkSize_pass hsize)).trans helem)
      (hsize.trans hv.2) fun k hk => ?_
    rw [State.getD_bytesToBits_bytes s .pbuf hk, bitWord]

/-- Settles O30: the checks of size, length and elements in this order, and each byte is the weighted sum of its eight
words. -/
theorem packWritesOneByteForEightBits : Obligations.PackWritesOneByteForEightBits := by
  intro s hv
  refine ⟨hasEncoding_of_row (i := .pack) rfl (by decide), fun hsize => ?_, fun hsize hlen => ?_,
    fun hsize hlen k hfirst => ?_, fun hsize hlen hlegal => ?_⟩
  · exact raises_of_check (exec_pack s) (check_fail (State.checkSize_fail hsize))
  · exact raises_of_check (exec_pack s)
      ((check_pass (State.checkSize_pass hsize)).trans (check_fail (require_neg _ _ hlen)))
  · have helem : s.checkElements .bit .pbuf s.plen.toNat = some ⟨.elem, natWord k⟩ :=
      State.checkElements_eq_some hfirst
    exact raises_of_check (exec_pack s) ((State.checkPack_elements hsize hlen).trans helem)
  · have helem : s.checkElements .bit .pbuf s.plen.toNat = none := State.checkElements_eq_none.2 hlegal
    have hfits : s.plen.toNat / 8 ≤ 2 ^ 20 := (Nat.div_le_self _ _).trans (hsize.trans hv.2)
    refine yieldsSequence_of_check (exec_pack s) ((State.checkPack_elements hsize hlen).trans helem) hfits
      fun j hj => ?_
    rw [State.byteWord_getD_bitsToBytes_bits s .pbuf hj, State.bitSum_getLsb s .pbuf hj hlegal, natWord]

end Sys2Proof.Machine

/-! PROOFS. Unit U_IMG (42_imageops.md R160 to R172): a pixel and its channels as numbers, the element functions on
legal words, and the clauses that the conversions of images share. -/

namespace Sys2Proof

/-- The lowest bit of a channel in its pixel (20_memory.md R65). -/
def Channel.lowBit : Channel → Nat
  | .alpha => 24
  | .red => 16
  | .green => 8
  | .blue => 0

end Sys2Proof

namespace Sys2Proof.Machine

/-! ### A pixel and its channels as numbers (20_memory.md R65, 42_imageops.md R160) -/

theorem toNat_extractChannel (p : Word) (ch : Channel) :
    (extractChannel p ch).toNat = p.toNat / 2 ^ ch.lowBit % 256 := by
  rw [← Nat.shiftRight_eq_div_pow]
  cases ch <;> exact BitVec.extractLsb'_toNat ..

/-- Nothing lies above the alpha channel. -/
theorem toNat_extractChannel_alpha (p : Word) : (extractChannel p .alpha).toNat = p.toNat / 2 ^ 24 := by
  have hp := p.isLt
  rw [toNat_extractChannel, Channel.lowBit]
  omega

theorem toNat_extractChannel_blue (p : Word) : (extractChannel p .blue).toNat = p.toNat % 256 := by
  rw [toNat_extractChannel, Channel.lowBit, pow_zero, Nat.div_one]

/-- A byte moved to a channel's place loses no bit. -/
theorem toNat_byteWord_shiftLeft (b : Byte) {n : Nat} (hn : n ≤ 24) : (byteWord b <<< n).toNat = b.toNat <<< n := by
  have hlt : b.toNat * 2 ^ n < 2 ^ 32 :=
    calc b.toNat * 2 ^ n < 2 ^ 8 * 2 ^ n := Nat.mul_lt_mul_of_pos_right b.isLt (by positivity)
      _ = 2 ^ (8 + n) := (pow_add ..).symm
      _ ≤ 2 ^ 32 := Nat.pow_le_pow_right (by norm_num) (by omega)
  rw [BitVec.toNat_shiftLeft, toNat_byteWord, Nat.shiftLeft_eq, Nat.mod_eq_of_lt hlt]

/-- The channels of a composed pixel do not overlap, so its value is their weighted sum. -/
theorem toNat_composePixel (a r g b : Byte) :
    (composePixel a r g b).toNat = a.toNat * 2 ^ 24 + r.toNat * 2 ^ 16 + g.toNat * 2 ^ 8 + b.toNat := by
  have hr := r.isLt
  have hg := g.isLt
  have hb := b.isLt
  have hgreen : g.toNat <<< 8 ||| b.toNat = g.toNat * 2 ^ 8 + b.toNat := by
    rw [← Nat.shiftLeft_add_eq_or_of_lt hb, Nat.shiftLeft_eq]
  have hred : r.toNat <<< 16 ||| (g.toNat * 2 ^ 8 + b.toNat) = r.toNat * 2 ^ 16 + (g.toNat * 2 ^ 8 + b.toNat) := by
    rw [← Nat.shiftLeft_add_eq_or_of_lt (by omega), Nat.shiftLeft_eq]
  have halpha : a.toNat <<< 24 ||| (r.toNat * 2 ^ 16 + (g.toNat * 2 ^ 8 + b.toNat))
      = a.toNat * 2 ^ 24 + (r.toNat * 2 ^ 16 + (g.toNat * 2 ^ 8 + b.toNat)) := by
    rw [← Nat.shiftLeft_add_eq_or_of_lt (by omega), Nat.shiftLeft_eq]
  rw [composePixel, BitVec.toNat_or, BitVec.toNat_or, BitVec.toNat_or, toNat_byteWord_shiftLeft a le_rfl,
    toNat_byteWord_shiftLeft r (by norm_num), toNat_byteWord_shiftLeft g (by norm_num), toNat_byteWord, Nat.or_assoc,
    Nat.or_assoc, hgreen, hred, halpha]
  omega

/-- The four channels of a pixel determine it. -/
theorem composePixel_extractChannel (p : Word) :
    composePixel (extractChannel p .alpha) (extractChannel p .red) (extractChannel p .green) (extractChannel p .blue)
      = p := by
  have hp := p.isLt
  refine BitVec.eq_of_toNat_eq ?_
  simp only [toNat_composePixel, toNat_extractChannel, Channel.lowBit]
  omega

/-- What a composed pixel holds in each channel. -/
theorem extractChannel_composePixel (a r g b : Byte) (ch : Channel) :
    extractChannel (composePixel a r g b) ch = match ch with
      | .alpha => a
      | .red => r
      | .green => g
      | .blue => b := by
  have ha := a.isLt
  have hr := r.isLt
  have hg := g.isLt
  have hb := b.isLt
  refine BitVec.eq_of_toNat_eq ?_
  rw [toNat_extractChannel, toNat_composePixel]
  cases ch <;> dsimp only [Channel.lowBit] <;> omega

/-- The mean of three channels fits a byte, so the grey value is exact (42_imageops.md R161). -/
theorem toNat_grayscale (p : Word) : (grayscale p).toNat = greyOf p := by
  simp only [grayscale, greyOf, BitVec.toNat_ofNat, toNat_extractChannel, Channel.lowBit]
  omega

/-! ### The element functions on legal words (42_imageops.md R162, R169) -/

/-- A legal byte or grey word is the byte it stands for, zero-extended (20_memory.md R64). -/
theorem byteWord_wordByte {w : Word} (h : w.toNat ≤ 255) : byteWord (wordByte w) = w := by
  refine BitVec.eq_of_toNat_eq ?_
  rw [toNat_byteWord, toNat_wordByte]
  omega

theorem byteWord_grayscale (p : Word) : byteWord (grayscale p) = BitVec.ofNat 32 (greyOf p) := by
  rw [byteWord_eq_ofNat, toNat_grayscale]

theorem bitWord_binarize {w : Word} (h : w.toNat ≤ 255) (thr : BitVec 16) :
    bitWord (binarize (wordByte w) thr) = if thr.toNat ≤ w.toNat then 1#32 else 0#32 := by
  rw [bitWord, binarize, toNat_wordByte, Nat.mod_eq_of_lt (by omega)]
  simp only [decide_eq_true_eq]

theorem composePixel_wordByte {a r g b : Word} (ha : a.toNat ≤ 255) (hr : r.toNat ≤ 255) (hg : g.toNat ≤ 255)
    (hb : b.toNat ≤ 255) : composePixel (wordByte a) (wordByte r) (wordByte g) (wordByte b)
      = (a <<< 24) ||| (r <<< 16) ||| (g <<< 8) ||| b := by
  rw [composePixel, byteWord_wordByte ha, byteWord_wordByte hr, byteWord_wordByte hg, byteWord_wordByte hb]

/-- The neutral pixel of a legal grey word has the grey in its three colours and is opaque. -/
theorem grayPixel_wordByte {g : Word} (h : g.toNat ≤ 255) :
    grayPixel (wordByte g) = 0xFF000000#32 ||| (g <<< 16) ||| (g <<< 8) ||| g := by
  have hopaque : byteWord 255 <<< 24 = 0xFF000000#32 := by decide
  rw [grayPixel, composePixel, byteWord_wordByte h, hopaque]

/-! ### What the conversions of images share (42_imageops.md R168 to R173) -/

section
variable {s : State} {i : Instr} {f : Word → Word}

/-- A conversion of an empty payload whose check passes yields the canonical empty image. -/
theorem yieldsImage_of_convert_empty {check : Option Violation}
    (hexec : exec i s = s.command i check fun s => s.convertImage f) (h : check = none) (hpn : s.pn = 0) :
    YieldsImage i s 0 0 fun _ _ => 0 := by
  rw [YieldsImage, hexec]
  exact State.command_image 0 0 _ _ h (State.convertImage_empty f hpn) (by simp) fun _ _ _ _ => rfl

/-- A conversion of a payload with cells whose check passes yields an image of the payload's shape, element by
element. -/
theorem yieldsImage_of_convert {check : Option Violation} {g : Word → Word}
    (hexec : exec i s = s.command i check fun s => s.convertImage f) (h : check = none) (hfits : s.pn ≤ 2 ^ 20)
    (hpn : s.pn ≠ 0) (hg : ∀ k < s.pn, f (s.word .pbuf k) = g (s.word .pbuf k)) :
    YieldsImage i s s.prows s.pcols fun r c => g (s.word .pbuf (r * s.pcols.toNat + c)) := by
  rw [YieldsImage, hexec]
  exact State.command_image s.prows s.pcols _ _ h (State.convertImage_nonempty f hpn) hfits
    fun _ hr _ hc => hg _ (cell_lt hr hc)

/-- Everything a conversion with an element check does: too large, empty, an illegal element, a legal image. -/
theorem conversion_clauses {e : ElementType} {g : Word → Word} (hv : s.cfg.Valid)
    (hexec : exec i s = s.command i (s.checkSize s.pn <|> s.checkImage e) fun s => s.convertImage f)
    (hg : ∀ w : Word, w.toNat ≤ e.maxWord → f w = g w) :
    (s.cfg.bufw < s.pn → Raises i s .size 0#32) ∧
    (s.pn = 0 → YieldsImage i s 0 0 fun _ _ => 0) ∧
    (s.pn ≤ s.cfg.bufw → s.pn ≠ 0 → ∀ k, FirstAbove s .pbuf s.pn e.maxWord k →
      Raises i s e.fault (BitVec.ofNat 32 k)) ∧
    (s.pn ≤ s.cfg.bufw → s.pn ≠ 0 → AllAtMost s .pbuf s.pn e.maxWord →
      YieldsImage i s s.prows s.pcols fun r c => g (s.word .pbuf (r * s.pcols.toNat + c))) := by
  have hcheck (hsize : s.pn ≤ s.cfg.bufw) (hpn : s.pn ≠ 0) :
      (s.checkSize s.pn <|> s.checkImage e) = s.checkElements e .pbuf s.pn :=
    (check_pass (State.checkSize_pass hsize)).trans (State.checkImage_nonempty e hpn)
  refine ⟨fun hsize => ?_, fun hpn => ?_, fun hsize hpn k hfirst => ?_, fun hsize hpn hlegal => ?_⟩
  · exact raises_of_check hexec (check_fail (State.checkSize_fail hsize))
  · have hsize : s.pn ≤ s.cfg.bufw := by omega
    exact yieldsImage_of_convert_empty hexec
      ((check_pass (State.checkSize_pass hsize)).trans (State.checkImage_empty e hpn)) hpn
  · exact raises_of_check hexec ((hcheck hsize hpn).trans (State.checkElements_eq_some hfirst))
  · exact yieldsImage_of_convert hexec ((hcheck hsize hpn).trans (State.checkElements_eq_none.2 hlegal))
      (hsize.trans hv.2) hpn fun k hk => hg _ (hlegal k hk)

end

/-! ### The commands of U_IMG as execution templates -/

section
variable (s : State)

theorem exec_compose : exec .compose s =
    s.command .compose
      (require (s.a0.toNat ≤ 255) .range 0
        <|> require (s.a1.toNat ≤ 255) .range 1
        <|> require (s.a2.toNat ≤ 255) .range 2
        <|> require (s.a3.toNat ≤ 255) .range 3) fun s =>
      s.setRes (composePixel (wordByte s.a0) (wordByte s.a1) (wordByte s.a2) (wordByte s.a3)) := rfl

theorem exec_extract (ch : Channel) : exec (.extract ch) s =
    s.command (.extract ch) none fun s => s.setRes (byteWord (extractChannel s.a0 ch)) := rfl

theorem exec_gray : exec .gray s = s.command .gray none fun s => s.setRes (byteWord (grayscale s.a0)) := rfl

theorem exec_binz (thr : BitVec 16) : exec (.binz thr) s =
    s.command (.binz thr) (require (s.a0.toNat ≤ 255) .range 0) fun s =>
      s.setRes (bitWord (binarize (wordByte s.a0) thr)) := rfl

theorem exec_img2gray : exec .img2gray s =
    s.command .img2gray (s.checkSize s.pn) fun s => s.convertImage fun p => byteWord (grayscale p) := rfl

theorem exec_img2bin (thr : BitVec 16) : exec (.img2bin thr) s =
    s.command (.img2bin thr) (s.checkSize s.pn <|> s.checkImage .grey) fun s =>
      s.convertImage fun g => bitWord (binarize (wordByte g) thr) := rfl

theorem exec_gray2img : exec .gray2img s =
    s.command .gray2img (s.checkSize s.pn <|> s.checkImage .grey) fun s =>
      s.convertImage fun g => grayPixel (wordByte g) := rfl

/-- EXTRACT has no check: the chosen channel of A0 is its result in every state. -/
theorem yieldsScalar_extract {ch : Channel} {n : Nat} (h : (extractChannel s.a0 ch).toNat = n) :
    YieldsScalar (.extract ch) s (BitVec.ofNat 32 n) := by
  rw [← h, ← byteWord_eq_ofNat]
  exact yieldsScalar_of_check (exec_extract s ch) rfl

end

/-! ### The obligations -/

/-- Settles O23: pixels and channels as numbers, and both directions of the bijection. -/
theorem channelsAreALosslessBijection : Obligations.ChannelsAreALosslessBijection :=
  ⟨toNat_composePixel,
    fun p => ⟨toNat_extractChannel_alpha p, toNat_extractChannel p .red, toNat_extractChannel p .green,
      toNat_extractChannel_blue p⟩,
    composePixel_extractChannel,
    fun a r g b => ⟨extractChannel_composePixel a r g b .alpha, extractChannel_composePixel a r g b .red,
      extractChannel_composePixel a r g b .green, extractChannel_composePixel a r g b .blue⟩⟩

/-- Settles O31: the four range checks in the order of the registers, and legal registers are their own bytes. -/
theorem composePutsFourChannelsIntoRes : Obligations.ComposePutsFourChannelsIntoRes := by
  intro s
  refine ⟨hasEncoding_of_row (i := .compose) rfl (by decide), fun h0 => ?_, fun h0 h1 => ?_, fun h0 h1 h2 => ?_,
    fun h0 h1 h2 h3 => ?_, fun h0 h1 h2 h3 => ?_⟩
  · exact raises_of_check (exec_compose s) (check_fail (require_neg _ _ (by omega)))
  · exact raises_of_check (exec_compose s) <|
      (check_pass (require_pos _ _ h0)).trans <| check_fail (require_neg _ _ (by omega))
  · exact raises_of_check (exec_compose s) <|
      (check_pass (require_pos _ _ h0)).trans <| (check_pass (require_pos _ _ h1)).trans <|
        check_fail (require_neg _ _ (by omega))
  · exact raises_of_check (exec_compose s) <|
      (check_pass (require_pos _ _ h0)).trans <| (check_pass (require_pos _ _ h1)).trans <|
        (check_pass (require_pos _ _ h2)).trans <| require_neg _ _ (by omega)
  · rw [← composePixel_wordByte h0 h1 h2 h3]
    exact yieldsScalar_of_check (exec_compose s) <|
      (check_pass (require_pos _ _ h0)).trans <| (check_pass (require_pos _ _ h1)).trans <|
        (check_pass (require_pos _ _ h2)).trans <| require_pos _ _ h3

/-- Settles O32: `yieldsScalar_extract` with the number each of the four channels stands for. -/
theorem extractTakesOneChannelOfA0 : Obligations.ExtractTakesOneChannelOfA0 := by
  intro s
  refine ⟨hasEncoding_of_row (i := .extract .alpha) rfl (by decide),
    hasEncoding_of_row (i := .extract .red) rfl (by decide),
    hasEncoding_of_row (i := .extract .green) rfl (by decide),
    hasEncoding_of_row (i := .extract .blue) rfl (by decide), ?_, ?_, ?_, ?_⟩
  · exact yieldsScalar_extract s (toNat_extractChannel_alpha _)
  · exact yieldsScalar_extract s (toNat_extractChannel _ .red)
  · exact yieldsScalar_extract s (toNat_extractChannel _ .green)
  · exact yieldsScalar_extract s (toNat_extractChannel_blue _)

/-- Settles O33: GRAY has no check, and its result is the exact mean of the colour channels. -/
theorem grayAveragesTheColourChannelsOfA0 : Obligations.GrayAveragesTheColourChannelsOfA0 := by
  intro s
  refine ⟨hasEncoding_of_row (i := .gray) rfl (by decide), ?_⟩
  rw [← byteWord_grayscale]
  exact yieldsScalar_of_check (exec_gray s) rfl

/-- Settles O34: the range check, and the unsigned comparison with the whole 16-bit threshold. -/
theorem binzComparesA0WithTheThreshold : Obligations.BinzComparesA0WithTheThreshold := by
  intro s thr
  refine ⟨hasEncoding_of_row (i := .binz thr) rfl (by decide), fun h => ?_, fun h => ?_⟩
  · exact raises_of_check (exec_binz s thr) (require_neg _ _ (by omega))
  · rw [← bitWord_binarize h]
    exact yieldsScalar_of_check (exec_binz s thr) (require_pos _ _ h)

/-- Settles O35: the size check is the only one, for a pixel is never illegal. -/
theorem img2grayAveragesEveryPixel : Obligations.Img2grayAveragesEveryPixel := by
  intro s hv
  refine ⟨hasEncoding_of_row (i := .img2gray) rfl (by decide), fun hsize => ?_, fun hpn => ?_, fun hsize hpn => ?_⟩
  · exact raises_of_check (exec_img2gray s) (State.checkSize_fail hsize)
  · exact yieldsImage_of_convert_empty (exec_img2gray s) (State.checkSize_pass (by omega)) hpn
  · exact yieldsImage_of_convert (g := fun p => BitVec.ofNat 32 (greyOf p)) (exec_img2gray s)
      (State.checkSize_pass hsize) (hsize.trans hv.2) hpn fun k _ => byteWord_grayscale _

/-- Settles O36: a conversion of grey words by the comparison of BINZ. -/
theorem img2binComparesEveryGreyWithTheThreshold : Obligations.Img2binComparesEveryGreyWithTheThreshold :=
  fun s thr hv => ⟨hasEncoding_of_row (i := .img2bin thr) rfl (by decide),
    conversion_clauses (e := .grey) (g := fun w => if thr.toNat ≤ w.toNat then 1#32 else 0#32) hv
      (exec_img2bin s thr) fun _ h => bitWord_binarize h thr⟩

/-- Settles O37: a conversion of grey words to opaque neutral pixels. -/
theorem gray2imgMakesNeutralOpaquePixels : Obligations.Gray2imgMakesNeutralOpaquePixels :=
  fun s hv => ⟨hasEncoding_of_row (i := .gray2img) rfl (by decide),
    conversion_clauses (e := .grey) (g := fun w => 0xFF000000#32 ||| (w <<< 16) ||| (w <<< 8) ||| w) hv
      (exec_gray2img s) fun _ h => grayPixel_wordByte h⟩

end Sys2Proof.Machine

/-! PROOFS. Unit U_STEG (43_steganography.md R194 to R201): the words of the two embedding geometries and of the
revealed bits, the checks of the embedding commands in their order, and the results of both. -/

namespace Sys2Proof.Machine

/-! ### The low bit of a word (43_steganography.md R190, R191) -/

/-- A legal bit word is its own lowest bit, zero-extended (20_memory.md R64). -/
theorem bitWord_getLsb_of_le_one {w : Word} (h : w.toNat ≤ 1) : bitWord (getLsb w) = w :=
  BitVec.eq_of_toNat_eq ((toNat_bitWord _).trans (toNat_getLsb_of_le_one h))

/-- The weight of a bit as `REVEAL_TEXT` counts it. -/
theorem toNat_getLsb (w : Word) : (getLsb w).toNat = if w.getLsbD 0 then 1 else 0 := by
  rw [getLsb, getBit, Bool.toNat, Bool.cond_eq_ite]

/-- A grey value compared with the threshold, as a word (42_imageops.md R161, R162). -/
theorem bitWord_binarize_grayscale (p : Word) (thr : BitVec 16) :
    bitWord (binarize (grayscale p) thr) = if thr.toNat ≤ greyOf p then 1#32 else 0#32 := by
  simp only [bitWord, binarize, toNat_grayscale, decide_eq_true_eq]

/-! ### The checks of the embedding commands, in their order -/

section
variable {s : State} {rest : Option Violation}

/-- Two operands that fit leave the checks after the size checks. -/
theorem State.checkSizes_pass {n m : Nat} (hn : n ≤ s.cfg.bufw) (hm : m ≤ s.cfg.bufw) :
    (s.checkSize n <|> s.checkSize m <|> rest) = rest :=
  (check_pass (State.checkSize_pass hn)).trans (check_pass (State.checkSize_pass hm))

/-- A cover with cells and a payload that both fit leave the checks of the payload words. -/
theorem State.checkFlat_pass (hcap : s.cap ≤ s.cfg.bufw) (hlen : s.plen.toNat ≤ s.cfg.bufw) (hne : s.cap ≠ 0) :
    (s.checkSize s.cap <|> s.checkSize s.plen.toNat <|> require (s.cap ≠ 0) .empty 0 <|> rest) = rest :=
  (State.checkSizes_pass hcap hlen).trans (check_pass (require_pos _ _ hne))

theorem State.checkDim_pass {pr pc : Nat} (hrows : pr ≤ s.crows.toNat) (hcols : pc ≤ s.ccols.toNat) :
    s.checkDim pr pc = none := require_pos _ _ ⟨hrows, hcols⟩

theorem State.checkDim_fail {pr pc : Nat} (h : ¬(pr ≤ s.crows.toNat ∧ pc ≤ s.ccols.toNat)) :
    s.checkDim pr pc = some ⟨.dim, 0⟩ := require_neg _ _ h

/-- An empty payload counts as 0 by 0, which no cover is too small for (43_steganography.md R198). -/
theorem State.checkDim_payload_empty (h : s.pn = 0) : s.checkDim s.payloadRows s.payloadCols = none := by
  rw [State.payloadRows_empty h, State.payloadCols_empty h, State.checkDim_pass (Nat.zero_le _) (Nat.zero_le _)]

theorem State.checkDim_payload_nonempty (h : s.pn ≠ 0) :
    s.checkDim s.payloadRows s.payloadCols = s.checkDim s.prows.toNat s.pcols.toNat := by
  rw [State.payloadRows_nonempty h, State.payloadCols_nonempty h]

/-- A payload no larger than the cover in either axis has no more cells. -/
theorem State.pn_le_cap (hrows : s.prows.toNat ≤ s.crows.toNat) (hcols : s.pcols.toNat ≤ s.ccols.toNat) :
    s.pn ≤ s.cap := Nat.mul_le_mul hrows hcols

theorem checkText_illFormed {bs : List Byte} {k : Nat} (h : TextEncoding.firstBad .utf8 bs = some k) :
    checkText bs = some ⟨.text, natWord k⟩ := by
  rw [checkText, Config.textEncoding, h]

theorem checkText_wellformed {bs : List Byte} (h : wellformed bs = true) : checkText bs = none := by
  rw [wellformed, Option.isNone_iff_eq_none] at h
  rw [checkText, h]

variable {i : Instr} {commit : State → State} {flags : State → FlagValues}

/-- A cover or else a payload that does not fit raises E_SIZE(0), whatever else the command checks. -/
theorem raises_size_of_checkSizes {n m : Nat}
    (hexec : exec i s = s.command i (s.checkSize n <|> s.checkSize m <|> rest) commit flags) :
    (s.cfg.bufw < n → Raises i s .size 0#32) ∧ (n ≤ s.cfg.bufw → s.cfg.bufw < m → Raises i s .size 0#32) :=
  ⟨fun hn => raises_of_check hexec (check_fail (State.checkSize_fail hn)),
    fun hn hm => raises_of_check hexec
      ((check_pass (State.checkSize_pass hn)).trans (check_fail (State.checkSize_fail hm)))⟩

/-- A flat embedding into an empty cover raises E_EMPTY(0) once the payload fits. -/
theorem raises_empty_of_checkFlat
    (hexec : exec i s = s.command i
      (s.checkSize s.cap <|> s.checkSize s.plen.toNat <|> require (s.cap ≠ 0) .empty 0 <|> rest) commit flags)
    (hcap : s.cap = 0) (hlen : s.plen.toNat ≤ s.cfg.bufw) : Raises i s .empty 0#32 :=
  raises_of_check hexec
    ((State.checkSizes_pass (by omega) hlen).trans (check_fail (require_neg _ _ (not_not.2 hcap))))

end

/-! ### The results of the embedding and revealing commands -/

section
variable {s : State} {i : Instr} {check : Option Violation} {commit : State → State} {flags : State → FlagValues}

theorem State.embedBox_payload_empty (bit : Nat → Bool) (h : s.pn = 0) :
    s.embedBox s.payloadRows s.payloadCols bit = s.embedBox 0 0 bit := by
  rw [State.payloadRows_empty h, State.payloadCols_empty h]

theorem State.embedBox_payload_nonempty (bit : Nat → Bool) (h : s.pn ≠ 0) :
    s.embedBox s.payloadRows s.payloadCols bit = s.embedBox s.prows.toNat s.pcols.toNat bit := by
  rw [State.payloadRows_nonempty h, State.payloadCols_nonempty h]

/-- A command whose checks pass and whose commit is an image result yields that image. -/
theorem yieldsImage_of_check {rows cols : Word} {f : Nat → Word} {cell : Nat → Nat → Word}
    (hexec : exec i s = s.command i check commit flags) (h : check = none) (hcommit : commit s = s.outImage rows cols f)
    (hfits : rows.toNat * cols.toNat ≤ 2 ^ 20)
    (hcell : ∀ r < rows.toNat, ∀ c < cols.toNat, f (r * cols.toNat + c) = cell r c) :
    YieldsImage i s rows cols cell (flags s) := by
  rw [YieldsImage, hexec]
  exact State.command_image rows cols f flags h hcommit hfits hcell

/-- A command whose checks pass and whose commit is a flat embedding leaves the cover with the payload words `w` in the
low bits of its first cells (43_steganography.md R193). -/
theorem embedsFlat_of_check {n : Nat} {bit : Nat → Bool} {w : Nat → Word}
    (hexec : exec i s = s.command i check commit flags) (h : check = none) (hcommit : commit s = s.embedFlat n bit)
    (hfits : s.cap ≤ 2 ^ 20) (hbit : ∀ k < n, bitWord (bit k) = w k) :
    ∃ t, exec i s = .next t ∧ OutputFrame s t s.crows s.ccols s.cap (flags s) ∧
      ∀ k < s.cap, t.word .obuf k =
        if k < n then (s.word .cbuf k &&& 0xFFFFFFFE#32) ||| w k else s.word .cbuf k := by
  refine ⟨_, hexec.trans (State.command_pass s i commit flags h), ?_, fun k hk => ?_⟩
  · rw [hcommit]
    exact State.outImage_frame s s.crows s.ccols _ _ hfits
  · rw [State.answer_word, State.setFlags_word, hcommit, State.embedFlat_word s n bit hk]
    split
    · next hkn => rw [setLsb_eq, hbit k hkn]
    · rfl

/-- A command whose checks pass and whose commit is a bounding-box embedding yields the cover with the payload words `w`
in the low bits of the cells inside the box (43_steganography.md R193). -/
theorem yieldsImage_of_embedBox {pr pc : Nat} {bit : Nat → Bool} {w : Nat → Word}
    (hexec : exec i s = s.command i check commit flags) (h : check = none) (hcommit : commit s = s.embedBox pr pc bit)
    (hfits : s.cap ≤ 2 ^ 20) (hbit : ∀ k < pr * pc, bitWord (bit k) = w k) :
    YieldsImage i s s.crows s.ccols (fun r c =>
      if r < pr ∧ c < pc then (s.word .cbuf (r * s.ccols.toNat + c) &&& 0xFFFFFFFE#32) ||| w (r * pc + c)
      else s.word .cbuf (r * s.ccols.toNat + c)) (flags s) := by
  refine yieldsImage_of_check hexec h hcommit hfits fun r _ c hc => ?_
  rw [rowMajor_cell hc]
  dsimp only
  split
  · next hbox => rw [setLsb_eq, hbit _ (cell_lt hbox.1 hbox.2)]
  · rfl

/-- The embedding of an empty box copies the cover. -/
theorem yieldsImage_of_embedBox_empty {bit : Nat → Bool} (hexec : exec i s = s.command i check commit flags)
    (h : check = none) (hcommit : commit s = s.embedBox 0 0 bit) (hfits : s.cap ≤ 2 ^ 20) :
    YieldsImage i s s.crows s.ccols (fun r c => s.word .cbuf (r * s.ccols.toNat + c)) (flags s) := by
  simpa only [Nat.not_lt_zero, false_and, if_false] using
    yieldsImage_of_embedBox (w := fun k => bitWord (bit k)) hexec h hcommit hfits fun _ _ => rfl

end

/-! ### The commands of U_STEG as execution templates -/

section
variable (s : State)

theorem exec_embedBits : exec .embedBits s =
    s.command .embedBits
      (s.checkSize s.cap <|> s.checkSize s.plen.toNat <|> require (s.cap ≠ 0) .empty 0
        <|> s.checkElements .bit .pbuf s.plen.toNat)
      (fun s => s.embedFlat s.plen.toNat fun k => getLsb (s.word .pbuf k))
      fun s => { trunc := decide (s.cap < s.plen.toNat) } := rfl

theorem exec_revealBits : exec .revealBits s =
    s.command .revealBits (s.checkSize s.cap) fun s =>
      s.outSequence s.cap fun k => bitWord (getLsb (s.word .cbuf k)) := rfl

theorem exec_embedBin : exec .embedBin s =
    s.command .embedBin
      (s.checkSize s.cap <|> s.checkSize s.pn <|> s.checkDim s.prows.toNat s.pcols.toNat
        <|> s.checkElements .boolean .pbuf s.pn) fun s =>
      s.embedBox s.prows.toNat s.pcols.toNat fun k => getLsb (s.word .pbuf k) := rfl

theorem exec_revealBin : exec .revealBin s =
    s.command .revealBin (s.checkSize s.cap <|> require (s.crows = s.ccols) .square 0) fun s =>
      s.outImage s.crows s.ccols fun k => bitWord (getLsb (s.word .cbuf k)) := rfl

theorem exec_embedColor (thr : BitVec 16) : exec (.embedColor thr) s =
    s.command (.embedColor thr)
      (s.checkSize s.cap <|> s.checkSize s.pn <|> s.checkDim s.payloadRows s.payloadCols) fun s =>
      s.embedBox s.payloadRows s.payloadCols fun k => binarize (grayscale (s.word .pbuf k)) thr := rfl

theorem exec_embedText : exec .embedText s =
    s.command .embedText
      (s.checkSize s.cap <|> s.checkSize s.plen.toNat <|> require (s.cap ≠ 0) .empty 0
        <|> s.checkElements .byte .pbuf s.plen.toNat <|> checkText (s.bytes .pbuf s.plen.toNat))
      (fun s => s.embedFlat (8 * s.plen.toNat) fun k =>
        (bytesToBits (s.bytes .pbuf s.plen.toNat)).getD k false)
      fun s => { trunc := decide (s.cap < 8 * s.plen.toNat), wf := true } := rfl

theorem exec_revealText : exec .revealText s =
    s.command .revealText (s.checkSize s.cap)
      (fun s => s.outSequence (s.cap / 8) fun j => byteWord (s.revealedBytes.getD j 0))
      fun s => { wf := wellformed s.revealedBytes } := rfl

end

/-! ### The obligations -/

/-- Settles O39: the flat checks in their order, and every legal payload word is the low bit of its cell. -/
theorem embedBitsSetsTheLowBitsOfTheCover : Obligations.EmbedBitsSetsTheLowBitsOfTheCover := by
  intro s hv
  obtain ⟨hcover, hpayload⟩ := raises_size_of_checkSizes (exec_embedBits s)
  refine ⟨hasEncoding_of_row (i := .embedBits) rfl (by decide), hcover, hpayload,
    raises_empty_of_checkFlat (exec_embedBits s), fun hcap hlen hne k hfirst => ?_, fun hcap hlen hne hlegal => ?_⟩
  · have helem : s.checkElements .bit .pbuf s.plen.toNat = some ⟨.elem, natWord k⟩ :=
      State.checkElements_eq_some hfirst
    exact raises_of_check (exec_embedBits s) ((State.checkFlat_pass hcap hlen hne).trans helem)
  · have helem : s.checkElements .bit .pbuf s.plen.toNat = none := State.checkElements_eq_none.2 hlegal
    exact embedsFlat_of_check (exec_embedBits s) ((State.checkFlat_pass hcap hlen hne).trans helem) rfl
      (hcap.trans hv.2) fun k hk => bitWord_getLsb_of_le_one (hlegal k hk)

/-- Settles O40: the size check is the only one, and each element is the low bit of its cell. -/
theorem revealBitsReadsTheLowBitOfEveryCell : Obligations.RevealBitsReadsTheLowBitOfEveryCell := by
  intro s hv
  refine ⟨hasEncoding_of_row (i := .revealBits) rfl (by decide), fun hsize => ?_, fun hsize => ?_⟩
  · exact raises_of_check (exec_revealBits s) (State.checkSize_fail hsize)
  · exact yieldsSequence_of_check (exec_revealBits s) (State.checkSize_pass hsize) (hsize.trans hv.2) fun _ _ => rfl

/-- Settles O41: the dimension check is on the registers as they stand, so a payload that passes it fits with the
cover. -/
theorem embedBinWritesTheBoxOfTheCover : Obligations.EmbedBinWritesTheBoxOfTheCover := by
  intro s hv
  have hchecks (hcap : s.cap ≤ s.cfg.bufw) (hrows : s.prows.toNat ≤ s.crows.toNat)
      (hcols : s.pcols.toNat ≤ s.ccols.toNat) :
      (s.checkSize s.cap <|> s.checkSize s.pn <|> s.checkDim s.prows.toNat s.pcols.toNat
        <|> s.checkElements .boolean .pbuf s.pn) = s.checkElements .boolean .pbuf s.pn :=
    (State.checkSizes_pass hcap ((State.pn_le_cap hrows hcols).trans hcap)).trans
      (check_pass (State.checkDim_pass hrows hcols))
  obtain ⟨hcover, hpayload⟩ := raises_size_of_checkSizes (exec_embedBin s)
  refine ⟨hasEncoding_of_row (i := .embedBin) rfl (by decide), hcover, hpayload, fun hcap hpn hdim => ?_,
    fun hcap hrows hcols k hfirst => ?_, fun hcap hrows hcols hlegal => ?_⟩
  · exact raises_of_check (exec_embedBin s)
      ((State.checkSizes_pass hcap hpn).trans (check_fail (State.checkDim_fail hdim)))
  · have helem : s.checkElements .boolean .pbuf s.pn = some ⟨.elem, natWord k⟩ := State.checkElements_eq_some hfirst
    exact raises_of_check (exec_embedBin s) ((hchecks hcap hrows hcols).trans helem)
  · have helem : s.checkElements .boolean .pbuf s.pn = none := State.checkElements_eq_none.2 hlegal
    exact yieldsImage_of_embedBox (exec_embedBin s) ((hchecks hcap hrows hcols).trans helem) rfl (hcap.trans hv.2)
      fun k hk => bitWord_getLsb_of_le_one (hlegal k hk)

/-- Settles O42: the size check comes before the square check, and each cell is the low bit of the cover's. -/
theorem revealBinReadsTheLowBitPlaneOfASquare : Obligations.RevealBinReadsTheLowBitPlaneOfASquare := by
  intro s hv
  refine ⟨hasEncoding_of_row (i := .revealBin) rfl (by decide), fun hsize => ?_, fun hsize hsquare => ?_,
    fun hsize hsquare => ?_⟩
  · exact raises_of_check (exec_revealBin s) (check_fail (State.checkSize_fail hsize))
  · exact raises_of_check (exec_revealBin s)
      ((check_pass (State.checkSize_pass hsize)).trans (require_neg _ _ hsquare))
  · exact yieldsImage_of_check (exec_revealBin s)
      ((check_pass (State.checkSize_pass hsize)).trans (require_pos _ _ hsquare)) rfl (hsize.trans hv.2)
      fun _ _ _ _ => rfl

/-- Settles O44: an empty payload counts as 0 by 0 and passes the dimension check; a pixel is never illegal. -/
theorem embedColorWritesTheBoxByGreyThreshold : Obligations.EmbedColorWritesTheBoxByGreyThreshold := by
  intro s thr hv
  obtain ⟨hcover, hpayload⟩ := raises_size_of_checkSizes (exec_embedColor s thr)
  refine ⟨hasEncoding_of_row (i := .embedColor thr) rfl (by decide), hcover, hpayload, fun hcap hpn hne hdim => ?_,
    fun hcap hpn => ?_, fun hcap hne hrows hcols => ?_⟩
  · exact raises_of_check (exec_embedColor s thr)
      ((State.checkSizes_pass hcap hpn).trans
        ((State.checkDim_payload_nonempty hne).trans (State.checkDim_fail hdim)))
  · exact yieldsImage_of_embedBox_empty (exec_embedColor s thr)
      ((State.checkSizes_pass hcap (by omega)).trans (State.checkDim_payload_empty hpn))
      (State.embedBox_payload_empty _ hpn) (hcap.trans hv.2)
  · have hpn : s.pn ≤ s.cfg.bufw := (State.pn_le_cap hrows hcols).trans hcap
    exact yieldsImage_of_embedBox (w := fun k => if thr.toNat ≤ greyOf (s.word .pbuf k) then 1#32 else 0#32)
      (exec_embedColor s thr)
      ((State.checkSizes_pass hcap hpn).trans
        ((State.checkDim_payload_nonempty hne).trans (State.checkDim_pass hrows hcols)))
      (State.embedBox_payload_nonempty _ hne) (hcap.trans hv.2) fun k _ => bitWord_binarize_grayscale _ thr

/-- Settles O45: the text check comes last, and bit `k` of the message is bit `7 - k mod 8` of word `k div 8`. -/
theorem embedTextEmbedsTheBitsOfAWellFormedMessage : Obligations.EmbedTextEmbedsTheBitsOfAWellFormedMessage := by
  intro s hv
  have hbytes (hlegal : AllAtMost s .pbuf s.plen.toNat 255) : s.checkElements .byte .pbuf s.plen.toNat = none :=
    State.checkElements_eq_none.2 hlegal
  obtain ⟨hcover, hpayload⟩ := raises_size_of_checkSizes (exec_embedText s)
  refine ⟨hasEncoding_of_row (i := .embedText) rfl (by decide), hcover, hpayload,
    raises_empty_of_checkFlat (exec_embedText s), fun hcap hlen hne j hfirst => ?_,
    fun hcap hlen hne hlegal k hbad => ?_, fun hcap hlen hne hlegal hwf => ?_⟩
  · have helem : s.checkElements .byte .pbuf s.plen.toNat = some ⟨.elem, natWord j⟩ :=
      State.checkElements_eq_some hfirst
    exact raises_of_check (exec_embedText s) ((State.checkFlat_pass hcap hlen hne).trans (check_fail helem))
  · exact raises_of_check (exec_embedText s)
      ((State.checkFlat_pass hcap hlen hne).trans ((check_pass (hbytes hlegal)).trans (checkText_illFormed hbad)))
  · refine embedsFlat_of_check (exec_embedText s)
      ((State.checkFlat_pass hcap hlen hne).trans ((check_pass (hbytes hlegal)).trans (checkText_wellformed hwf))) rfl
      (hcap.trans hv.2) fun k hk => ?_
    rw [State.getD_bytesToBits_bytes s .pbuf hk, bitWord]

/-- Settles O46: OBUF holds the revealed bytes word by word, so WF says whether they are well-formed. -/
theorem revealTextGroupsTheLowBitsIntoBytes : Obligations.RevealTextGroupsTheLowBitsIntoBytes := by
  intro s hv
  refine ⟨hasEncoding_of_row (i := .revealText) rfl (by decide), fun hsize => ?_, fun hsize => ?_⟩
  · exact raises_of_check (exec_revealText s) (State.checkSize_fail hsize)
  · obtain ⟨t, hexec, hframe, hwords⟩ := yieldsSequence_of_check (exec_revealText s) (State.checkSize_pass hsize)
      ((Nat.div_le_self _ _).trans (hsize.trans hv.2)) fun j hj => State.byteWord_getD_bitsToBytes_bits s .cbuf hj
    have hbytes : t.bytes .obuf (s.cap / 8) = s.revealedBytes := by
      rw [← hframe.olen]
      exact bytes_of_exec_revealText hv hexec hframe.completed.reply
    refine ⟨t, hexec, by rwa [hbytes], fun j hj => ?_⟩
    simp only [hwords j hj, toNat_getLsb, natWord]

end Sys2Proof.Machine

/-! PROOFS. Unit U_CIPH (44_cipher.md R220 to R229): byte arithmetic in terms of words, the common checks in their order,
and the cipher template as a fault or a sequence result. -/

namespace Sys2Proof.Machine

/-! ### Bytes as words (44_cipher.md R220) -/

/-- Addition of bytes is addition modulo 256. -/
theorem byteWord_add (a b : Byte) : byteWord (a + b) = BitVec.ofNat 32 ((a.toNat + b.toNat) % 256) := by
  rw [byteWord_eq_ofNat, BitVec.toNat_add]

/-- Subtraction of bytes is subtraction modulo 256. -/
theorem byteWord_sub (a b : Byte) : byteWord (a - b) = BitVec.ofNat 32 ((a.toNat + 256 - b.toNat) % 256) := by
  have hb := b.isLt
  rw [byteWord_eq_ofNat, BitVec.toNat_sub, show 2 ^ 8 - b.toNat + a.toNat = a.toNat + 256 - b.toNat by omega]

theorem byteWord_xor (a b : Byte) : byteWord (a ^^^ b) = byteWord a ^^^ byteWord b := BitVec.setWidth_xor

section
variable {s : State} {k : Nat}

/-- A word of legal data is its byte, zero-extended. -/
theorem LegalData.byteWord_dataByte (h : LegalData s) (hk : k < s.plen.toNat) :
    byteWord (s.dataByte k) = s.word .pbuf k := byteWord_wordByte (h.legal k hk)

/-- A word of legal key material is its byte, zero-extended. -/
theorem LegalKey.byteWord_keyByte (h : LegalKey s) (hk : k < s.klen.toNat) :
    byteWord (s.keyByte k) = s.word .kbuf k := byteWord_wordByte (h.legal k hk)

theorem LegalData.toNat_dataByte (h : LegalData s) (hk : k < s.plen.toNat) :
    (s.dataByte k).toNat = (s.word .pbuf k).toNat := by rw [← h.byteWord_dataByte hk, toNat_byteWord]

theorem LegalKey.toNat_keyByte (h : LegalKey s) (hk : k < s.klen.toNat) :
    (s.keyByte k).toNat = (s.word .kbuf k).toNat := by rw [← h.byteWord_keyByte hk, toNat_byteWord]

end

/-! ### The checks of the commands, in their order (44_cipher.md R221) -/

section
variable {s : State} {j : Nat} {own : Option Violation}

theorem State.checkBytes_data_fail (h : FirstAbove s .pbuf s.plen.toNat 255 j) :
    s.checkElements .byte .pbuf s.plen.toNat = some ⟨.elem, BitVec.ofNat 32 j⟩ :=
  State.checkElements_eq_some (e := .byte) h

/-- The index of a word in KBUF is marked by bit 31 (60_exceptions.md R260). -/
theorem State.checkBytes_key_fail (h : FirstAbove s .kbuf s.klen.toNat 255 j) :
    s.checkElements .byte .kbuf s.klen.toNat = some ⟨.elem, 0x80000000#32 ||| BitVec.ofNat 32 j⟩ :=
  State.checkElements_eq_some (e := .byte) h

theorem LegalData.checkBytes (h : LegalData s) : s.checkElements .byte .pbuf s.plen.toNat = none :=
  State.checkElements_eq_none.2 h.legal

theorem LegalKey.checkBytes (h : LegalKey s) : s.checkElements .byte .kbuf s.klen.toNat = none :=
  State.checkElements_eq_none.2 h.legal

theorem LegalData.checkData (h : LegalData s) : s.checkData = none :=
  (check_pass (State.checkSize_pass h.fits)).trans h.checkBytes

/-- Data and key material that fit leave the command's own checks and then those of the elements. -/
theorem State.checkKeyed_of_fits (hdata : s.plen.toNat ≤ s.cfg.bufw) (hkey : s.klen.toNat ≤ s.cfg.bufw) :
    s.checkKeyed own = (own <|> s.checkElements .byte .pbuf s.plen.toNat
      <|> s.checkElements .byte .kbuf s.klen.toNat) := State.checkSizes_pass hdata hkey

/-- Where the command's own checks pass too, those of the elements are left. -/
theorem State.checkKeyed_elements (hdata : s.plen.toNat ≤ s.cfg.bufw) (hkey : s.klen.toNat ≤ s.cfg.bufw)
    (hown : own = none) :
    s.checkKeyed own = (s.checkElements .byte .pbuf s.plen.toNat <|> s.checkElements .byte .kbuf s.klen.toNat) :=
  (State.checkKeyed_of_fits hdata hkey).trans (check_pass hown)

/-- With empty data OTP checks nothing of the pad (44_cipher.md R227). -/
theorem State.checkPad_empty (h : s.plen.toNat = 0) : s.checkPad = none :=
  (check_pass (State.checkSize_pass (by omega))).trans (if_pos h)

/-- With other data that fits the pad is checked for its length, and then the elements of both. -/
theorem State.checkPad_nonempty (hfits : s.plen.toNat ≤ s.cfg.bufw) (hne : s.plen.toNat ≠ 0) :
    s.checkPad = (require (s.klen.toNat = s.plen.toNat) .padLen s.klen
      <|> s.checkElements .byte .pbuf s.plen.toNat <|> s.checkElements .byte .kbuf s.klen.toNat) :=
  (check_pass (State.checkSize_pass hfits)).trans (if_neg hne)

/-- A pad of the data's length leaves the checks of the elements. -/
theorem State.checkPad_elements (hfits : s.plen.toNat ≤ s.cfg.bufw) (hne : s.plen.toNat ≠ 0)
    (hlen : s.klen.toNat = s.plen.toNat) :
    s.checkPad = (s.checkElements .byte .pbuf s.plen.toNat <|> s.checkElements .byte .kbuf s.klen.toNat) :=
  (State.checkPad_nonempty hfits hne).trans (check_pass (require_pos _ _ hlen))

end

/-! ### A command by the cipher template -/

section
variable {s : State} {i : Instr} {check own : Option Violation} {g : State → Nat → Byte} {f : Fault} {info : Word}

theorem raises_of_cipher (hexec : exec i s = s.cipher i check g) (unit : s.cfg.hasCipher = true)
    (h : check = some ⟨f, info⟩) : Raises i s f info := by
  rw [Raises, hexec]
  exact State.cipher_raises unit h

theorem yieldsSequence_of_cipher {elem : Nat → Word} (hexec : exec i s = s.cipher i check g) (hv : s.cfg.Valid)
    (unit : s.cfg.hasCipher = true) (hfits : s.plen.toNat ≤ s.cfg.bufw) (h : check = none)
    (helem : ∀ k < s.plen.toNat, byteWord (g s k) = elem k) : YieldsSequence i s s.plen.toNat elem := by
  rw [YieldsSequence, hexec]
  exact State.cipher_sequence unit h (hfits.trans hv.2) helem

/-- The faults of a command without key buffer (44_cipher.md R221 (a), (c)). -/
theorem raises_of_checkData (hexec : exec i s = s.cipher i s.checkData g) :
    (s.cfg.hasCipher = true → s.cfg.bufw < s.plen.toNat → Raises i s .size 0#32) ∧
    (s.cfg.hasCipher = true → s.plen.toNat ≤ s.cfg.bufw → ∀ j, FirstAbove s .pbuf s.plen.toNat 255 j →
      Raises i s .elem (BitVec.ofNat 32 j)) :=
  ⟨fun unit hsize => raises_of_cipher hexec unit (check_fail (State.checkSize_fail hsize)),
    fun unit hfits _ hfirst => raises_of_cipher hexec unit
      ((check_pass (State.checkSize_pass hfits)).trans (State.checkBytes_data_fail hfirst))⟩

/-- The size faults of a command with a key buffer (44_cipher.md R221 (a), (b)), whatever its own checks are. -/
theorem raises_size_of_checkKeyed (hexec : exec i s = s.cipher i (s.checkKeyed own) g)
    (unit : s.cfg.hasCipher = true) :
    (s.cfg.bufw < s.plen.toNat → Raises i s .size 0#32) ∧
    (s.plen.toNat ≤ s.cfg.bufw → s.cfg.bufw < s.klen.toNat → Raises i s .size 0#32) :=
  ⟨fun hdata => raises_of_cipher hexec unit (check_fail (State.checkSize_fail hdata)),
    fun hdata hkey => raises_of_cipher hexec unit
      ((check_pass (State.checkSize_pass hdata)).trans (check_fail (State.checkSize_fail hkey)))⟩

/-- A command with a key buffer raises the fault of its own check once data and key material fit. -/
theorem raises_own_of_checkKeyed (hexec : exec i s = s.cipher i (s.checkKeyed own) g) (unit : s.cfg.hasCipher = true)
    (hdata : s.plen.toNat ≤ s.cfg.bufw) (hkey : s.klen.toNat ≤ s.cfg.bufw) (hown : own = some ⟨f, info⟩) :
    Raises i s f info :=
  raises_of_cipher hexec unit ((State.checkKeyed_of_fits hdata hkey).trans (check_fail hown))

/-- The element fault of the data comes after the command's own checks (44_cipher.md R221 (c)). -/
theorem raises_data_of_checkKeyed {j : Nat} (hexec : exec i s = s.cipher i (s.checkKeyed own) g)
    (unit : s.cfg.hasCipher = true) (hdata : s.plen.toNat ≤ s.cfg.bufw) (hkey : s.klen.toNat ≤ s.cfg.bufw)
    (hown : own = none) (hfirst : FirstAbove s .pbuf s.plen.toNat 255 j) : Raises i s .elem (BitVec.ofNat 32 j) :=
  raises_of_cipher hexec unit
    ((State.checkKeyed_elements hdata hkey hown).trans (check_fail (State.checkBytes_data_fail hfirst)))

/-- The element fault of the key material comes last (44_cipher.md R221 (d)). -/
theorem raises_key_of_checkKeyed {j : Nat} (hexec : exec i s = s.cipher i (s.checkKeyed own) g) (hdata : LegalData s)
    (hkey : s.klen.toNat ≤ s.cfg.bufw) (hown : own = none) (hfirst : FirstAbove s .kbuf s.klen.toNat 255 j) :
    Raises i s .elem (0x80000000#32 ||| BitVec.ofNat 32 j) :=
  raises_of_cipher hexec hdata.unit ((State.checkKeyed_elements hdata.fits hkey hown).trans
    ((check_pass hdata.checkBytes).trans (State.checkBytes_key_fail hfirst)))

theorem yieldsSequence_of_checkKeyed {elem : Nat → Word} (hexec : exec i s = s.cipher i (s.checkKeyed own) g)
    (hv : s.cfg.Valid) (hdata : LegalData s) (hkey : LegalKey s) (hown : own = none)
    (helem : ∀ k < s.plen.toNat, byteWord (g s k) = elem k) : YieldsSequence i s s.plen.toNat elem :=
  yieldsSequence_of_cipher hexec hv hdata.unit hdata.fits ((State.checkKeyed_elements hdata.fits hkey.fits hown).trans
    ((check_pass hdata.checkBytes).trans hkey.checkBytes)) helem

end

/-! ### The commands of U_CIPH as cipher templates -/

section
variable (s : State)

theorem exec_caesarEnc (key : BitVec 8) : exec (.caesarEnc key) s =
    s.cipher (.caesarEnc key) s.checkData fun s k => s.dataByte k + key := rfl

theorem exec_caesarDec (key : BitVec 8) : exec (.caesarDec key) s =
    s.cipher (.caesarDec key) s.checkData fun s k => s.dataByte k - key := rfl

theorem exec_vigEnc : exec .vigEnc s =
    s.cipher .vigEnc (s.checkKeyed s.checkKeyNonempty) fun s k =>
      s.dataByte k + s.keyByte (k % s.klen.toNat) := rfl

theorem exec_xork (key : BitVec 8) : exec (.xork key) s =
    s.cipher (.xork key) s.checkData fun s k => s.dataByte k ^^^ key := rfl

theorem exec_otp : exec .otp s = s.cipher .otp s.checkPad fun s k => s.dataByte k ^^^ s.keyByte k := rfl

theorem exec_cbcDec : exec .cbcDec s =
    s.cipher .cbcDec
      (s.checkKeyed (s.checkKeyNonempty <|> require (s.plen.toNat % s.klen.toNat = 0) .block s.plen)) fun s k =>
      chainDecrypt s.klen.toNat s.dataByte s.keyByte k := rfl

end

/-- A byte of the chaining is masked by the vector in the first block and by the data word one block before elsewhere
(44_cipher.md R229). -/
theorem byteWord_chainDecrypt {s : State} (hdata : LegalData s) (hkey : LegalKey s) {k : Nat}
    (hk : k < s.plen.toNat) : byteWord (chainDecrypt s.klen.toNat s.dataByte s.keyByte k) =
      s.word .pbuf k ^^^ (if k < s.klen.toNat then s.word .kbuf k else s.word .pbuf (k - s.klen.toNat)) := by
  rw [chainDecrypt, byteWord_xor, hdata.byteWord_dataByte hk]
  split
  · next hfirst => rw [hkey.byteWord_keyByte hfirst]
  · rw [hdata.byteWord_dataByte ((Nat.sub_le _ _).trans_lt hk)]

/-! ### The obligations -/

/-- Settles O47: both commands have the checks of the data only, and a byte and the key add and subtract modulo 256. -/
theorem caesarAddsAndSubtractsTheKey : Obligations.CaesarAddsAndSubtractsTheKey := by
  intro s key hv
  refine ⟨hasEncoding_of_row (i := .caesarEnc key) rfl (by decide),
    hasEncoding_of_row (i := .caesarDec key) rfl (by decide),
    List.forall_mem_cons.2 ⟨raises_of_checkData (exec_caesarEnc s key),
      List.forall_mem_singleton.2 (raises_of_checkData (exec_caesarDec s key))⟩, fun hdata => ⟨?_, ?_⟩⟩
  · refine yieldsSequence_of_cipher (exec_caesarEnc s key) hv hdata.unit hdata.fits hdata.checkData fun k hk => ?_
    rw [byteWord_add, hdata.toNat_dataByte hk]
  · refine yieldsSequence_of_cipher (exec_caesarDec s key) hv hdata.unit hdata.fits hdata.checkData fun k hk => ?_
    rw [byteWord_sub, hdata.toNat_dataByte hk]

/-- Settles O48: the keyed checks with that of an empty keyword, and the key index stays below KLEN as it cycles. -/
theorem vigEncAddsTheCyclingKey : Obligations.VigEncAddsTheCyclingKey := by
  intro s hv
  have hexec := exec_vigEnc s
  refine ⟨hasEncoding_of_row (i := .vigEnc) rfl (by decide), fun unit => (raises_size_of_checkKeyed hexec unit).1,
    fun unit => (raises_size_of_checkKeyed hexec unit).2, fun unit hfits hempty => ?_,
    fun unit hfits hkfits hne j hfirst => ?_, fun hdata hkfits j hfirst => ?_, fun hdata hkey hne => ?_⟩
  · exact raises_own_of_checkKeyed hexec unit hfits (by omega) (require_neg _ _ (not_not.2 hempty))
  · exact raises_data_of_checkKeyed hexec unit hfits hkfits (require_pos _ _ hne) hfirst
  · have hne : s.klen.toNat ≠ 0 := Nat.ne_zero_of_lt hfirst.1
    exact raises_key_of_checkKeyed hexec hdata hkfits (require_pos _ _ hne) hfirst
  · refine yieldsSequence_of_checkKeyed hexec hv hdata hkey (require_pos _ _ hne) fun k hk => ?_
    have hcycle : k % s.klen.toNat < s.klen.toNat := Nat.mod_lt _ (Nat.pos_of_ne_zero hne)
    rw [byteWord_add, hdata.toNat_dataByte hk, hkey.toNat_keyByte hcycle]

/-- Settles O50: the checks of the data only, and zero-extension commutes with XOR. -/
theorem xorkXorsEveryByteWithTheKey : Obligations.XorkXorsEveryByteWithTheKey := by
  intro s key hv
  obtain ⟨hsize, helem⟩ := raises_of_checkData (exec_xork s key)
  refine ⟨hasEncoding_of_row (i := .xork key) rfl (by decide), hsize, helem, fun hdata => ?_⟩
  refine yieldsSequence_of_cipher (exec_xork s key) hv hdata.unit hdata.fits hdata.checkData fun k hk => ?_
  rw [byteWord_xor, hdata.byteWord_dataByte hk, byteWord_eq_ofNat]

/-- Settles O51: empty data passes whatever the pad; other data needs a pad of its length, then legal words in both. -/
theorem otpXorsTheDataWithThePad : Obligations.OtpXorsTheDataWithThePad := by
  intro s hv
  have hexec := exec_otp s
  refine ⟨hasEncoding_of_row (i := .otp) rfl (by decide), fun unit hsize => ?_, fun unit hempty => ?_,
    fun unit hfits hne hlen => ?_, fun unit hfits hne hlen j hfirst => ?_, fun hdata hne hlen j hfirst => ?_,
    fun hdata hne hlen hkey => ?_⟩
  · exact raises_of_cipher hexec unit (check_fail (State.checkSize_fail hsize))
  · have hnone : YieldsSequence .otp s s.plen.toNat fun _ => 0 :=
      yieldsSequence_of_cipher hexec hv unit (by omega) (State.checkPad_empty hempty) fun _ _ => by omega
    rwa [hempty] at hnone
  · exact raises_of_cipher hexec unit
      ((State.checkPad_nonempty hfits hne).trans (check_fail (require_neg _ _ hlen)))
  · exact raises_of_cipher hexec unit
      ((State.checkPad_elements hfits hne hlen).trans (check_fail (State.checkBytes_data_fail hfirst)))
  · exact raises_of_cipher hexec hdata.unit ((State.checkPad_elements hdata.fits hne hlen).trans
      ((check_pass hdata.checkBytes).trans (State.checkBytes_key_fail hfirst)))
  · refine yieldsSequence_of_cipher hexec hv hdata.unit hdata.fits ((State.checkPad_elements hdata.fits hne hlen).trans
      ((check_pass hdata.checkBytes).trans hkey.checkBytes)) fun k hk => ?_
    rw [byteWord_xor, hdata.byteWord_dataByte hk, hkey.byteWord_keyByte (hlen ▸ hk)]

/-- Settles O53: the block check comes between those of an empty vector and of the elements, and the mask of a byte is a
word of the vector or of the data. -/
theorem cbcDecXorsEveryBlockWithTheCipherBefore : Obligations.CbcDecXorsEveryBlockWithTheCipherBefore := by
  intro s hv
  have hexec := exec_cbcDec s
  have hown (hne : s.klen.toNat ≠ 0) (hblock : s.plen.toNat % s.klen.toNat = 0) :
      (s.checkKeyNonempty <|> require (s.plen.toNat % s.klen.toNat = 0) .block s.plen) = none :=
    (check_pass (require_pos _ _ hne)).trans (require_pos _ _ hblock)
  refine ⟨hasEncoding_of_row (i := .cbcDec) rfl (by decide), fun unit => (raises_size_of_checkKeyed hexec unit).1,
    fun unit => (raises_size_of_checkKeyed hexec unit).2, fun unit hfits hempty => ?_,
    fun unit hfits hkfits hne hblock => ?_, fun unit hfits hkfits hne hblock j hfirst => ?_,
    fun hdata hkfits hblock j hfirst => ?_, fun hdata hkey hne hblock => ?_⟩
  · exact raises_own_of_checkKeyed hexec unit hfits (by omega) (check_fail (require_neg _ _ (not_not.2 hempty)))
  · exact raises_own_of_checkKeyed hexec unit hfits hkfits
      ((check_pass (require_pos _ _ hne)).trans (require_neg _ _ hblock))
  · exact raises_data_of_checkKeyed hexec unit hfits hkfits (hown hne hblock) hfirst
  · have hne : s.klen.toNat ≠ 0 := Nat.ne_zero_of_lt hfirst.1
    exact raises_key_of_checkKeyed hexec hdata hkfits (hown hne hblock) hfirst
  · exact yieldsSequence_of_checkKeyed hexec hv hdata hkey (hown hne hblock) fun k hk =>
      byteWord_chainDecrypt hdata hkey hk

end Sys2Proof.Machine

/-! PROOFS. Unit U_MOVE and the control register (45_move_control.md R250, R253): what `CLRERR` leaves of STATUS, what a
write of `CTRL` makes of a state, and what MOVE leaves in the registers and the buffers. -/

namespace Sys2Proof.Machine

/-! ### CLRERR (45_move_control.md R253) -/

/-- Writing the value a bit already has changes nothing (40_bitops.md R120). -/
theorem setBit_getLsbD_self (v : Word) {p : Nat} (hp : p < 32) : setBit v (v.getLsbD p) p = v := by
  refine BitVec.eq_of_getLsbD_eq fun i _ => ?_
  rw [getLsbD_setBit _ _ _ _ hp]
  split
  next h => rw [h]
  next => rfl

section
variable (s : State)

theorem State.setErr_self : s.setErr s.err = s := by
  rw [State.setErr, State.err, setBit_getLsbD_self _ (by omega)]

@[simp] theorem State.clrErr_err : s.clrErr.err = false := State.setErr_err s false

@[simp] theorem State.clrErr_trunc : s.clrErr.trunc = s.trunc := State.setErr_trunc s false

@[simp] theorem State.clrErr_wellFormedFlag : s.clrErr.wellFormedFlag = s.wellFormedFlag :=
  State.setErr_wellFormedFlag s false

@[simp] theorem State.clrErr_reserved : s.clrErr.status.extractLsb' 3 29 = s.status.extractLsb' 3 29 :=
  State.setErr_reserved s false

theorem State.clrErr_sameHost : SameHost s s.clrErr := ⟨rfl, rfl, rfl⟩

/-- `CLRERR` writes STATUS and the three registers of the fault record alone. -/
theorem State.clrErr_readReg {r : Reg} (hr : r ∉ [Reg.status, .errcode, .errcmd, .errinfo]) :
    s.clrErr.readReg r = s.readReg r := by
  cases r with
  | status | errcode | errcmd | errinfo => simp at hr
  | _ => rfl

/-- Where no fault is recorded `CLRERR` changes nothing. -/
theorem State.clrErr_eq_self (herr : s.err = false) (hcode : s.errcode = 0) (hcmd : s.errcmd = 0)
    (hinfo : s.errinfo = 0) : s.clrErr = s := by
  have hset : s.setErr false = s := herr ▸ s.setErr_self
  rw [State.clrErr, hset]
  cases s
  subst hcode hcmd hinfo
  rfl

end

/-! ### A write of `CTRL` (20_memory.md R78) -/

section
variable {s : State} {data : Word} {rest : List Txn}

theorem State.writeCtrl_clears (h : data.getLsbD 0 = true) : s.writeCtrl data = s.clrErr := if_pos h

theorem State.writeCtrl_keeps (h : data.getLsbD 0 = false) : s.writeCtrl data = s :=
  if_neg (Bool.eq_false_iff.1 h)

theorem step_write_ctrl (h : s.host = .write 3#32 data :: rest) :
    step s = .next (((s.taken rest).writeCtrl data).answer (.writeDone .okay)) := by
  have hloc : locate s.cfg.bufw 3#32 = some (.reg .ctrl) := locate_regAddr _ .ctrl
  rw [step_write h, State.writePort, State.taken_cfg, hloc]

end

/-! ### MOVE (45_move_control.md R250) -/

/-- The descriptor registers of the buffer a destination names (10_state.md R25). -/
def destDescriptor : Dest → List Reg
  | .c => [.crows, .ccols]
  | .p => [.prows, .pcols, .plen]
  | .k => [.klen]

section
variable (s : State)

theorem State.moveTo_readReg {d : Dest} {r : Reg} (hr : r ∉ destDescriptor d) :
    (s.moveTo d).readReg r = s.readReg r := by
  cases d with
  | c =>
    cases r with
    | crows | ccols => simp [destDescriptor] at hr
    | _ => rfl
  | p =>
    cases r with
    | prows | pcols | plen => simp [destDescriptor] at hr
    | _ => rfl
  | k =>
    cases r with
    | klen => simp [destDescriptor] at hr
    | _ => rfl

/-- The state in which `MOVE d` completes. -/
def State.moved (d : Dest) : State := ((s.moveTo d).setFlags {}).answer (.writeDone .okay)

/-- MOVE has no check to fail. -/
theorem exec_move (d : Dest) : exec (.move d) s = .next (s.moved d) := rfl

theorem State.moved_completed (d : Dest) : Completed s (s.moved d) {} := (CommitFrame.moveTo s d).completed {}

/-- MOVE writes STATUS and the destination's descriptor alone. -/
theorem State.moved_regs (d : Dest) : SameRegsBut (.status :: destDescriptor d) s (s.moved d) := by
  intro r hr
  obtain ⟨hstatus, hdescriptor⟩ := not_or.1 (mt List.mem_cons.2 hr)
  rw [State.moved, State.answer_readReg, State.setFlags_readReg _ _ _ hstatus, State.moveTo_readReg s hdescriptor]

theorem State.moved_word (d : Dest) (b : Buffer) (k : Nat) :
    (s.moved d).word b k = if b = destBuffer d ∧ k < s.olen.toNat then s.word .obuf k else s.word b k := by
  rw [State.moved, State.answer_word, State.setFlags_word, State.moveTo_word]

theorem State.moved_sameWords (d : Dest) (b : Buffer) (h : b ≠ destBuffer d) : SameWords b s (s.moved d) := by
  intro k
  rw [State.moved_word, if_neg fun hk => h hk.1]

theorem State.moved_word_destBuffer (d : Dest) (k : Nat) :
    (s.moved d).word (destBuffer d) k =
      if k < s.olen.toNat then s.word .obuf k else s.word (destBuffer d) k := by
  simp only [State.moved_word, true_and]

end

/-- Case (d) of 30_encoding.md R99: MOVE has no destination 3. -/
theorem rejects_decode_move_three (hc : Bool) : Rejects (decode hc 0x360#32) :=
  (rejects_decode_iff hc _).2 (.inr (.inr (.inr (by decide))))

/-! ### The obligations -/

/-- Settles O9, by data bit 0: set, the write is `CLRERR`, which is the identity on an empty record; clear, it only
answers. -/
theorem clrErrClearsTheFaultRecord : Obligations.ClrErrClearsTheFaultRecord := by
  intro s data rest h
  have hstep := step_write_ctrl h
  cases hdata : data.getLsbD 0 with
  | true =>
    rw [State.writeCtrl_clears hdata] at hstep
    refine ⟨_, hstep, rfl, (State.clrErr_sameHost _).answer _, ?_, State.clrErr_trunc _,
      State.clrErr_wellFormedFlag _, State.clrErr_reserved _, fun _ => ⟨rfl, rfl, rfl⟩, nofun, fun r hr => ?_,
      fun b i => by simp, fun herr hcode hcmd hinfo => ?_⟩
    · rw [Bool.not_true, Bool.and_false]
      exact State.clrErr_err _
    · rw [State.answer_readReg, State.clrErr_readReg _ hr, State.taken_readReg]
    · rw [State.clrErr_eq_self (s.taken rest) herr hcode hcmd hinfo]
      rfl
  | false =>
    rw [State.writeCtrl_keeps hdata] at hstep
    exact ⟨_, hstep, rfl, (SameHost.refl _).answer _, (Bool.and_true _).symm, rfl, rfl, rfl, nofun,
      fun _ => ⟨rfl, rfl, rfl⟩, fun r _ => by simp, fun b i => by simp, fun _ _ _ _ => rfl⟩

/-- Settles O54: MOVE always commits, and each clause is the law of `State.moved` at its destination. -/
theorem moveCopiesTheOutputAndItsDescriptor : Obligations.MoveCopiesTheOutputAndItsDescriptor := by
  intro s
  have hencoding (d : Dest) : HasEncoding (.move d) 0x60 10 d.code :=
    hasEncoding_of_row (i := .move d) rfl (by decide)
  exact ⟨hencoding .c, hencoding .p, hencoding .k, rejects_decode_move_three,
    ⟨_, exec_move s .c, s.moved_completed .c, s.moved_regs .c, rfl, rfl, s.moved_sameWords .c,
      s.moved_word_destBuffer .c⟩,
    ⟨_, exec_move s .p, s.moved_completed .p, s.moved_regs .p, rfl, rfl, rfl, s.moved_sameWords .p,
      s.moved_word_destBuffer .p⟩,
    ⟨_, exec_move s .k, s.moved_completed .k, s.moved_regs .k, rfl, s.moved_sameWords .k,
      s.moved_word_destBuffer .k⟩⟩

end Sys2Proof.Machine

/-! PROOFS. Faults (60_exceptions.md R260, R266): a legal word is the word of the command it decodes to, format by
format (30_encoding.md R93), so the command word a fault records is the word the host wrote to `CMD`. -/

namespace Sys2Proof.Machine

/-! ### A legal word is the word of its command (30_encoding.md R93, R95) -/

theorem withZeros_eq_ok {n : Nat} {w : Word} {i j : Instr} :
    withZeros n w i = .ok j ↔ w.toNat / 2 ^ n = 0 ∧ i = j := by
  rw [withZeros, ← zeroFrom_iff]
  split
  · next h => simp [h]
  · next h => simp [h]

theorem toNat_thrField (w : Word) : (thrField w).toNat = w.toNat / 256 % 65536 := by
  simp [thrField, Nat.shiftRight_eq_div_pow]

theorem code_channelOf (sel : BitVec 2) : (channelOf sel).code = sel.toNat := by
  revert sel
  decide

theorem code_of_destOf {sel : BitVec 2} {d : Dest} : destOf sel = some d → d.code = sel.toNat := by
  revert sel d
  decide

/-- A command whose opcode and field are the word's has that word. -/
theorem encode_eq_of_fields {i : Instr} {w : Word} (hop : (opcodeOf w).toNat = i.opcode)
    (hfield : w.toNat / 256 = i.field) : encode i = w := by
  apply BitVec.eq_of_toNat_eq
  rw [toNat_opcodeOf] at hop
  rw [toNat_encode]
  omega

/-- Whatever command a decoding of the word `w` gives, its word is `w`. -/
def ReadsBack (w : Word) (r : Except Illegal Instr) : Prop := ∀ i, r = .ok i → encode i = w

section
variable {w : Word}

theorem readsBack_error (e : Illegal) : ReadsBack w (.error e) := nofun

theorem readsBack_ifCipher (hc : Bool) {r : Except Illegal Instr} (h : ReadsBack w r) :
    ReadsBack w (ifCipher hc r) := by
  cases hc with
  | false => exact readsBack_error _
  | true => exact h

/-- The bits above the zero bits of a format are those of the command's field. -/
theorem readsBack_withZeros {n : Nat} {i : Instr} (hop : (opcodeOf w).toNat = i.opcode)
    (hfield : w.toNat / 2 ^ n = 0 → w.toNat / 256 = i.field) : ReadsBack w (withZeros n w i) := by
  intro j h
  obtain ⟨hzeros, rfl⟩ := withZeros_eq_ok.1 h
  exact encode_eq_of_fields hop (hfield hzeros)

theorem readsBack_decodeN {i : Instr} (hop : (opcodeOf w).toNat = i.opcode) (hfield : i.field = 0) :
    ReadsBack w (decodeN w i) :=
  readsBack_withZeros hop fun hzeros => by omega

theorem readsBack_decodePB {f : BitVec 8 → Bool → Instr} (hop : ∀ pos bit, (opcodeOf w).toNat = (f pos bit).opcode)
    (hfield : ∀ pos bit, (f pos bit).field = pos.toNat + 256 * bit.toNat) : ReadsBack w (decodePB w f) :=
  readsBack_withZeros (hop _ _) fun hzeros => by
    have hbit : (w.getLsbD 16).toNat = w.toNat / 2 ^ 16 % 2 := Nat.toNat_testBit w.toNat 16
    rw [hfield, toNat_byteField, hbit]
    omega

theorem readsBack_decodeByte {f : BitVec 8 → Instr} (hop : ∀ b, (opcodeOf w).toNat = (f b).opcode)
    (hfield : ∀ b, (f b).field = b.toNat) : ReadsBack w (decodeByte w f) :=
  readsBack_withZeros (hop _) fun hzeros => by
    rw [hfield, toNat_byteField]
    omega

theorem readsBack_decodeCH {f : Channel → Instr} (hop : ∀ ch, (opcodeOf w).toNat = (f ch).opcode)
    (hfield : ∀ ch, (f ch).field = ch.code) : ReadsBack w (decodeCH w f) :=
  readsBack_withZeros (hop _) fun hzeros => by
    rw [hfield, code_channelOf, toNat_selField]
    omega

theorem readsBack_decodeTH {f : BitVec 16 → Instr} (hop : ∀ thr, (opcodeOf w).toNat = (f thr).opcode)
    (hfield : ∀ thr, (f thr).field = thr.toNat) : ReadsBack w (decodeTH w f) :=
  readsBack_withZeros (hop _) fun hzeros => by
    rw [hfield, toNat_thrField]
    omega

theorem readsBack_decodeDS {f : Dest → Instr} (hop : ∀ d, (opcodeOf w).toNat = (f d).opcode)
    (hfield : ∀ d, (f d).field = d.code) : ReadsBack w (decodeDS w f) := by
  intro i h
  rw [decodeDS] at h
  split at h
  next hzeros =>
    cases hd : destOf (selField w) with
    | none => simp [hd] at h
    | some d =>
      obtain rfl : f d = i := by simpa [hd] using h
      refine encode_eq_of_fields (hop d) ?_
      have hhigh := zeroFrom_iff.1 hzeros
      rw [hfield, code_of_destOf hd, toNat_selField]
      omega
  next => cases h

/-- The decoder gives a command only for its own word: the rows of 30_encoding.md R96 by their formats. -/
theorem readsBack_decode (hc : Bool) (w : Word) : ReadsBack w (decode hc w) := by
  rw [decode]
  split
  -- formats PB, CH and DS
  case h_1 hop => exact readsBack_decodePB (fun _ _ => hop) fun _ _ => rfl
  case h_8 hop => exact readsBack_decodeCH (fun _ => hop) fun _ => rfl
  case h_31 hop => exact readsBack_decodeDS (fun _ => hop) fun _ => rfl
  -- formats PS and KY
  case h_2 hop => exact readsBack_decodeByte (fun _ => hop) fun _ => rfl
  case h_23 hop | h_24 hop | h_27 hop =>
    exact readsBack_ifCipher hc (readsBack_decodeByte (fun _ => hop) fun _ => rfl)
  -- format TH
  case h_10 hop | h_12 hop | h_19 hop | h_20 hop => exact readsBack_decodeTH (fun _ => hop) fun _ => rfl
  -- format N, in U_CIPH and in the other units
  case h_25 hop | h_26 hop | h_28 hop | h_29 hop | h_30 hop =>
    exact readsBack_ifCipher hc (readsBack_decodeN hop rfl)
  case h_32 => exact readsBack_error _
  all_goals next hop => exact readsBack_decodeN hop rfl

end

/-! ### What a write to `CMD` can do while `ERR` = 0 -/

section
variable {s t : State} {w : Word}

theorem State.writeCmd_legal {i : Instr} (h : s.err = false) (hd : decode s.cfg.hasCipher w = .ok i) :
    s.writeCmd w = exec i s := by
  rw [State.writeCmd, h, hd]
  rfl

/-- The write records a fault for the very word written, or it runs a command that completes. -/
theorem State.writeCmd_cases (hs : s.err = false) (h : s.writeCmd w = .next t) :
    (∃ f info, FaultRecorded s t w f info) ∨ ∃ flags, Completed s t flags := by
  cases hd : decode s.cfg.hasCipher w with
  | error e =>
    have hw : Rejects (decode s.cfg.hasCipher w) := hd ▸ rejects_error e
    rw [State.writeCmd_illegal hs hw] at h
    cases h
    exact .inl ⟨_, _, State.raise_recorded ..⟩
  | ok i =>
    obtain rfl : encode i = w := readsBack_decode _ w i hd
    rw [State.writeCmd_legal hs hd] at h
    exact (exec_cases h).imp_right fun hdone => ⟨_, hdone⟩

end

/-! ### The obligation -/

/-- Settles O8: a write to `CMD` that does not record a fault completes, and a completed command keeps `ERR` = 0 and
answers OKAY. -/
theorem faultRecordsAndChangesNothingElse : Obligations.FaultRecordsAndChangesNothingElse := by
  refine ⟨fun s w rest t hs hhost hstep hbad => ?_, rfl⟩
  rw [step_write_cmd hhost] at hstep
  rcases State.writeCmd_cases (s := s.taken rest) hs hstep with hfault | ⟨flags, hdone⟩
  · exact hfault
  · have herr : t.err = false := hdone.err.trans hs
    exact absurd hdone.reply (hbad.resolve_left (by simp [herr]))

end Sys2Proof.Machine

/-! PROOFS. The reset transaction (70_reset_and_hazards.md R290): the engine is left in the reset state of its own
instance, whose registers read 0 apart from the constants the parameters determine. -/

namespace Sys2Proof.Machine

/-! ### What the registers read after a reset (10_state.md R29, R35) -/

/-- `ID`, `CAP` and `BUFSZ` depend on the parameters of the instance alone. -/
theorem State.readReg_congr_of_cfg {s t : State} {r : Reg} (hcfg : t.cfg = s.cfg)
    (hr : r ∈ [Reg.id, .cap, .bufsz]) : t.readReg r = s.readReg r := by
  cases r with
  | id => rfl
  | cap | bufsz => rw [State.readReg, State.readReg, hcfg]
  | _ => simp at hr

section
variable (cfg : Config) (resets : Nat) (host : List Txn)

@[simp] theorem State.resetWith_cfg : (State.resetWith cfg resets host).cfg = cfg := rfl

@[simp] theorem State.resetWith_host : (State.resetWith cfg resets host).host = host := rfl

@[simp] theorem State.resetWith_err : (State.resetWith cfg resets host).err = false := BitVec.getLsbD_zero

theorem State.resetWith_readReg {r : Reg} (hr : r ∉ [Reg.id, .cap, .bufsz]) :
    (State.resetWith cfg resets host).readReg r = 0 := by
  cases r with
  | id | cap | bufsz => simp at hr
  | _ => rfl

end

/-! ### The step of a reset transaction -/

/-- The reset keeps the instance and what the host has still to do. -/
theorem step_reset {s : State} {rest : List Txn} (h : s.host = .reset :: rest) :
    step s = .next (State.resetWith s.cfg (s.resets + 1) rest) := by
  rw [step, h]
  rfl

/-! ### The obligation -/

/-- Settles O19: the reset transaction leads to the reset state of the same instance, and no step but it and `CLRERR`
clears `ERR`. -/
theorem resetClearsEveryRegister : Obligations.ResetClearsEveryRegister := by
  refine ⟨fun s rest hhost => ?_, onlyClearedByClrErrOrReset⟩
  exact ⟨_, step_reset hhost, State.resetWith_cfg .., State.resetWith_host .., State.resetWith_err ..,
    fun _ => State.resetWith_readReg _ _ _, fun _ => State.readReg_congr_of_cfg (State.resetWith_cfg ..)⟩

end Sys2Proof.Machine

/-! PROOFS. The round trip between commands and their words (30_encoding.md R91 to R98): each format reads its own field
back, U_CIPH is a gate before the format, and the decoder gives no command that the instance does not have. -/

namespace Sys2Proof.Machine

/-! ### Each format reads its field back (30_encoding.md R93) -/

/-- Bits 31:8 of a command's word are its field. -/
theorem toNat_encode_div (i : Instr) : (encode i).toNat / 256 = i.field := by
  have hop := Laws.opcode_lt i
  rw [toNat_encode]
  omega

theorem channelOf_eq_of_code {sel : BitVec 2} {ch : Channel} : sel.toNat = ch.code → channelOf sel = ch := by
  cases ch <;> revert sel <;> decide

theorem destOf_eq_of_code {sel : BitVec 2} {d : Dest} : sel.toNat = d.code → destOf sel = some d := by
  cases d <;> revert sel <;> decide

section
variable {w : Word}

theorem decodeN_eq_ok (i : Instr) (h : w.toNat / 256 = 0) : decodeN w i = .ok i :=
  withZeros_eq_ok.2 ⟨h, rfl⟩

theorem decodeCH_eq_ok {ch : Channel} (f : Channel → Instr) (h : w.toNat / 256 = ch.code) :
    decodeCH w f = .ok (f ch) := by
  have hch : ch.code < 4 := by cases ch <;> decide
  refine withZeros_eq_ok.2 ⟨by omega, congrArg f (channelOf_eq_of_code ?_)⟩
  rw [toNat_selField]
  omega

theorem decodeTH_eq_ok {thr : BitVec 16} (f : BitVec 16 → Instr) (h : w.toNat / 256 = thr.toNat) :
    decodeTH w f = .ok (f thr) := by
  have hthr := thr.isLt
  refine withZeros_eq_ok.2 ⟨by omega, congrArg f (BitVec.eq_of_toNat_eq ?_)⟩
  rw [toNat_thrField]
  omega

theorem decodeDS_eq_ok {d : Dest} (f : Dest → Instr) (h : w.toNat / 256 = d.code) : decodeDS w f = .ok (f d) := by
  have hd : d.code < 4 := by cases d <;> decide
  have hzero : zeroFrom 10 w = true := zeroFrom_iff.2 (by omega)
  have hdest : destOf (selField w) = some d := destOf_eq_of_code (by rw [toNat_selField]; omega)
  rw [decodeDS, if_pos hzero, hdest]

end

theorem ifCipher_eq_ok {hc : Bool} {r : Except Illegal Instr} {i : Instr} (hwf : hc = true) (h : r = .ok i) :
    ifCipher hc r = .ok i := by
  rw [hwf, ← h]
  rfl

/-- Every command the instance has is what its own word decodes to, by the rows of 30_encoding.md R96. -/
theorem decode_encode {hc : Bool} {i : Instr} (hwf : Instr.wf hc i = true) : decode hc (encode i) = .ok i := by
  have hop : (opcodeOf (encode i)).toNat = i.opcode := Laws.opcodeOf_field _ _ (Laws.opcode_lt i)
  have hfield := toNat_encode_div i
  rw [decode, hop]
  cases i with
  | setbit pos bit => exact decodePB_eq_ok _ hfield
  | getbit pos => exact decodeByte_eq_ok _ hfield
  | extract ch => exact decodeCH_eq_ok _ hfield
  | binz thr | img2bin thr | embedGray thr | embedColor thr => exact decodeTH_eq_ok _ hfield
  | caesarEnc key | caesarDec key | xork key => exact ifCipher_eq_ok hwf (decodeByte_eq_ok _ hfield)
  | vigEnc | vigDec | otp | cbcEnc | cbcDec => exact ifCipher_eq_ok hwf (decodeN_eq_ok _ hfield)
  | move dst => exact decodeDS_eq_ok _ hfield
  | _ => exact decodeN_eq_ok _ hfield

/-! ### The optional unit (30_encoding.md R98) -/

/-- U_CIPH has the opcodes 0x50 to 0x57. -/
theorem opcode_of_unit_ciph {i : Instr} (h : i.unit = .ciph) : 0x50 ≤ i.opcode ∧ i.opcode ≤ 0x57 := by
  cases i with
  | caesarEnc | caesarDec | vigEnc | vigDec | xork | otp | cbcEnc | cbcDec => simp [Instr.opcode]
  | _ => cases h

theorem wf_of_unit_ne_ciph {i : Instr} (hc : Bool) (h : i.unit ≠ .ciph) : Instr.wf hc i = true := by
  rw [Instr.wf]
  cases hu : i.unit with
  | ciph => exact absurd hu h
  | _ => rfl

theorem wf_of_unit_ciph {i : Instr} (hc : Bool) (h : i.unit = .ciph) : Instr.wf hc i = hc := by rw [Instr.wf, h]

theorem rejects_decode_cipher {w : Word} (hlow : 0x50 ≤ w.toNat % 256) (hhigh : w.toNat % 256 ≤ 0x57) :
    Rejects (decode false w) :=
  (rejects_decode_iff false w).2 (.inr (.inl ⟨hlow, hhigh, rfl⟩))

/-- The decoder gives no command of an absent unit. -/
theorem wf_of_decode {hc : Bool} {w : Word} {i : Instr} (h : decode hc w = .ok i) : Instr.wf hc i = true := by
  by_cases hu : i.unit = .ciph
  · rw [wf_of_unit_ciph hc hu]
    obtain rfl : encode i = w := readsBack_decode hc w i h
    have hop : (encode i).toNat % 256 = i.opcode := by
      have := Laws.opcode_lt i
      rw [toNat_encode]
      omega
    obtain ⟨hlow, hhigh⟩ := opcode_of_unit_ciph hu
    cases hc with
    | true => rfl
    | false => exact absurd h (rejects_decode_cipher (hop ▸ hlow) (hop ▸ hhigh) i)
  · exact wf_of_unit_ne_ciph hc hu

/-- The gate of U_CIPH stands before its own eight opcodes only. -/
theorem decode_congr_of_not_cipher {w : Word} (hc hc' : Bool) (h : ¬(0x50 ≤ w.toNat % 256 ∧ w.toNat % 256 ≤ 0x57)) :
    decode hc w = decode hc' w := by
  by_cases hrow : ∃ row ∈ formatZeros, row.1 = w.toNat % 256
  · obtain ⟨row, hmem, hop⟩ := hrow
    rw [formatZeros_eq_append, List.mem_append, List.mem_append, List.mem_singleton] at hmem
    rcases hmem with hplain | hcipher | rfl
    · rw [decode, decode, toNat_opcodeOf, ← hop]
      fin_cases hplain <;> rfl
    · exact absurd (hop ▸ opcode_of_mem_cipherRows row hcipher) h
    · rw [decode_move hop.symm, decode_move hop.symm]
  · have hnone : ∀ row ∈ formatZeros, row.1 ≠ w.toNat % 256 := fun row hmem hop => hrow ⟨row, hmem, hop⟩
    rw [decode_of_no_row hnone, decode_of_no_row hnone]

theorem exec_vigDec (s : State) : exec .vigDec s =
    s.cipher .vigDec (s.checkKeyed s.checkKeyNonempty) fun s k =>
      s.dataByte k - s.keyByte (k % s.klen.toNat) := rfl

theorem exec_cbcEnc (s : State) : exec .cbcEnc s =
    s.cipher .cbcEnc (s.checkKeyed s.checkKeyNonempty) fun s k =>
      (chainEncrypt s.klen.toNat s.dataByte s.keyByte s.plen.toNat).getD k 0 := rfl

/-- Every command of U_CIPH runs the cipher template. -/
theorem exec_eq_cipher {i : Instr} (s : State) (h : i.unit = .ciph) : ∃ check f, exec i s = s.cipher i check f := by
  cases i with
  | caesarEnc key => exact ⟨_, _, exec_caesarEnc s key⟩
  | caesarDec key => exact ⟨_, _, exec_caesarDec s key⟩
  | vigEnc => exact ⟨_, _, exec_vigEnc s⟩
  | vigDec => exact ⟨_, _, exec_vigDec s⟩
  | xork key => exact ⟨_, _, exec_xork s key⟩
  | otp => exact ⟨_, _, exec_otp s⟩
  | cbcEnc => exact ⟨_, _, exec_cbcEnc s⟩
  | cbcDec => exact ⟨_, _, exec_cbcDec s⟩
  | _ => cases h

theorem raises_illegal_of_unit_absent {i : Instr} {s : State} (hu : i.unit = .ciph) (hc : s.cfg.hasCipher = false) :
    Raises i s .illegal 0#32 := by
  obtain ⟨check, f, hexec⟩ := exec_eq_cipher s hu
  exact raises_of_check hexec (check_fail (require_neg _ _ (by simp [hc])))

/-! ### The obligations -/

/-- Settles O1: the opcode selects the command's row, and the row's format reads the field back. -/
theorem encodedCommandDecodesToItself : Obligations.EncodedCommandDecodesToItself := fun _ _ hwf => decode_encode hwf

/-- Settles O2: each format gives a command only for its own word, and the gate of U_CIPH none of an absent unit. -/
theorem legalWordIsTheEncodingOfOneCommand : Obligations.LegalWordIsTheEncodingOfOneCommand :=
  fun hc w i h => ⟨readsBack_decode hc w i h, wf_of_decode h⟩

/-- Settles O4: the eight words are the encodings of their commands. -/
theorem wordsOfTheSpecDecode : Obligations.WordsOfTheSpecDecode :=
  ⟨decode_encode (i := .setbit 5 true) rfl, decode_encode (i := .getbit 31) rfl, decode_encode (i := .pack) rfl,
    decode_encode (i := .extract .red) rfl, decode_encode (i := .img2bin 128) rfl, decode_encode (i := .embedBits) rfl,
    decode_encode (i := .caesarEnc 3) rfl, decode_encode (i := .move .p) rfl⟩

/-- Settles O5: the decoder consults `HAS_CIPHER` for the opcodes of U_CIPH only, and so does the cipher template. -/
theorem cipherUnitIsOptional : Obligations.CipherUnitIsOptional :=
  ⟨fun _ hlow hhigh => rejects_decode_cipher hlow hhigh, fun _ h => decode_congr_of_not_cipher false true h,
    fun _ => rfl, fun _ _ hu hc => raises_illegal_of_unit_absent hu hc⟩

end Sys2Proof.Machine

/-! PROOFS. What every command commits (30_encoding.md R90, step 4): a scalar, a sequence, an image or a move, each
within the depth of its buffer. From this one list follow the frame of every command and the invariant of every step
(10_state.md R31, 70_reset_and_hazards.md R297). -/

namespace Sys2Proof.Machine

/-! ### Every step answers a next state (70_reset_and_hazards.md R305) -/

theorem exec_next (i : Instr) (s : State) : ∃ t, exec i s = .next t := by
  obtain ⟨check, commit, hexec, -⟩ := exec_eq_command i s
  rw [hexec]
  exact State.command_next s i commit _

theorem State.writeCmd_next (s : State) (w : Word) : ∃ t, s.writeCmd w = .next t := by
  cases herr : s.err with
  | true => exact ⟨_, State.writeCmd_refused herr⟩
  | false =>
    cases hd : decode s.cfg.hasCipher w with
    | error e => exact ⟨_, State.writeCmd_illegal herr (hd ▸ rejects_error e)⟩
    | ok i =>
      rw [State.writeCmd_legal herr hd]
      exact exec_next i s

theorem State.writePort_next (s : State) (addr data : Word) : ∃ t, s.writePort addr data = .next t := by
  rw [State.writePort]
  split
  · exact ⟨_, rfl⟩
  · exact s.writeCmd_next data
  all_goals exact ⟨_, rfl⟩

theorem step_next (s : State) : ∃ t, step s = .next t := by
  cases hhost : s.host with
  | nil =>
    rw [step, hhost]
    exact ⟨_, rfl⟩
  | cons txn rest =>
    cases txn with
    | read addr => exact ⟨_, step_read hhost⟩
    | write addr data =>
      rw [step_write hhost]
      exact State.writePort_next _ addr data
    | reset => exact ⟨_, step_reset hhost⟩

/-! ### What a command commits -/

theorem exec_bin2img (s : State) : exec .bin2img s =
    s.command .bin2img (s.checkSize s.pn <|> s.checkImage .boolean) fun s =>
      s.convertImage fun b => binaryPixel (getLsb b) := rfl

theorem exec_embedGray (s : State) (thr : BitVec 16) : exec (.embedGray thr) s =
    s.command (.embedGray thr)
      (s.checkSize s.cap <|> s.checkSize s.pn <|> s.checkDim s.payloadRows s.payloadCols
        <|> s.checkElements .grey .pbuf (s.payloadRows * s.payloadCols)) fun s =>
      s.embedBox s.payloadRows s.payloadCols fun k => binarize (wordByte (s.word .pbuf k)) thr := rfl

/-- The state after the commit phase of a command other than MOVE. A sequence or an image lies within the depth of OBUF;
B2BITS checks no size, for its eight words fit every instance of 00_scope.md R8. -/
inductive OutputCommit (s : State) : State → Prop where
  | scalar (v : Word) : OutputCommit s (s.setRes v)
  | sequence {n : Nat} (f : Nat → Word) (hn : n ≤ s.cfg.bufw ∨ n = 8) : OutputCommit s (s.outSequence n f)
  | image {rows cols : Word} (f : Nat → Word) (hn : rows.toNat * cols.toNat ≤ s.cfg.bufw) :
      OutputCommit s (s.outImage rows cols f)

/-- A list of checks that begins with a size check and passes bounds that size. -/
theorem State.le_bufw_of_checks {s : State} {n : Nat} {rest : Option Violation}
    (h : (s.checkSize n <|> rest) = none) : n ≤ s.cfg.bufw :=
  State.checkSize_eq_none.1 (check_orElse_eq_none.1 h).1

theorem OutputCommit.convertImage {s : State} (f : Word → Word) (hn : s.pn ≤ s.cfg.bufw) :
    OutputCommit s (s.convertImage f) := by
  by_cases h : s.pn = 0
  · rw [State.convertImage_empty f h]
    exact .image _ (by simp)
  · rw [State.convertImage_nonempty f h]
    exact .image _ hn

/-- The command runs the execution template, and what it commits when its checks pass is an `OutputCommit`. -/
def CommitsOutput (i : Instr) (s : State) : Prop :=
  ∃ check commit flags, exec i s = s.command i check commit flags ∧ (check = none → OutputCommit s (commit s))

/-- A command of U_CIPH commits a sequence of the data's length, which each of them checks first. -/
theorem commitsOutput_of_cipher {i : Instr} {s : State} {check : Option Violation} {f : State → Nat → Byte}
    (hexec : exec i s = s.cipher i check f) (hcheck : check = none → s.plen.toNat ≤ s.cfg.bufw) :
    CommitsOutput i s :=
  ⟨_, _, _, hexec, fun h => .sequence _ (.inl (hcheck (check_orElse_eq_none.1 h).2))⟩

theorem commitsOutput (i : Instr) (s : State) (hi : i.unit ≠ .move) : CommitsOutput i s := by
  cases i with
  | setbit pos bit => exact ⟨_, _, _, exec_setbit s pos bit, fun _ => .scalar _⟩
  | getbit pos => exact ⟨_, _, _, exec_getbit s pos, fun _ => .scalar _⟩
  | b2bits => exact ⟨_, _, _, exec_b2bits s, fun _ => .sequence _ (.inr rfl)⟩
  | bits2b => exact ⟨_, _, _, exec_bits2b s, fun _ => .scalar _⟩
  | unpack => exact ⟨_, _, _, exec_unpack s, fun h => .sequence _ (.inl (State.le_bufw_of_checks h))⟩
  | pack =>
    exact ⟨_, _, _, exec_pack s, fun h =>
      .sequence _ (.inl ((Nat.div_le_self _ _).trans (State.le_bufw_of_checks h)))⟩
  | compose => exact ⟨_, _, _, exec_compose s, fun _ => .scalar _⟩
  | extract ch => exact ⟨_, _, _, exec_extract s ch, fun _ => .scalar _⟩
  | gray => exact ⟨_, _, _, exec_gray s, fun _ => .scalar _⟩
  | binz thr => exact ⟨_, _, _, exec_binz s thr, fun _ => .scalar _⟩
  | img2gray => exact ⟨_, _, _, exec_img2gray s, fun h => .convertImage _ (State.checkSize_eq_none.1 h)⟩
  | img2bin thr => exact ⟨_, _, _, exec_img2bin s thr, fun h => .convertImage _ (State.le_bufw_of_checks h)⟩
  | gray2img => exact ⟨_, _, _, exec_gray2img s, fun h => .convertImage _ (State.le_bufw_of_checks h)⟩
  | bin2img => exact ⟨_, _, _, exec_bin2img s, fun h => .convertImage _ (State.le_bufw_of_checks h)⟩
  | embedBits => exact ⟨_, _, _, exec_embedBits s, fun h => .image _ (State.le_bufw_of_checks h)⟩
  | revealBits => exact ⟨_, _, _, exec_revealBits s, fun h => .sequence _ (.inl (State.checkSize_eq_none.1 h))⟩
  | embedBin => exact ⟨_, _, _, exec_embedBin s, fun h => .image _ (State.le_bufw_of_checks h)⟩
  | revealBin => exact ⟨_, _, _, exec_revealBin s, fun h => .image _ (State.le_bufw_of_checks h)⟩
  | embedGray thr => exact ⟨_, _, _, exec_embedGray s thr, fun h => .image _ (State.le_bufw_of_checks h)⟩
  | embedColor thr => exact ⟨_, _, _, exec_embedColor s thr, fun h => .image _ (State.le_bufw_of_checks h)⟩
  | embedText => exact ⟨_, _, _, exec_embedText s, fun h => .image _ (State.le_bufw_of_checks h)⟩
  | revealText =>
    exact ⟨_, _, _, exec_revealText s, fun h =>
      .sequence _ (.inl ((Nat.div_le_self _ _).trans (State.checkSize_eq_none.1 h)))⟩
  | caesarEnc key => exact commitsOutput_of_cipher (exec_caesarEnc s key) State.le_bufw_of_checks
  | caesarDec key => exact commitsOutput_of_cipher (exec_caesarDec s key) State.le_bufw_of_checks
  | vigEnc => exact commitsOutput_of_cipher (exec_vigEnc s) State.le_bufw_of_checks
  | vigDec => exact commitsOutput_of_cipher (exec_vigDec s) State.le_bufw_of_checks
  | xork key => exact commitsOutput_of_cipher (exec_xork s key) State.le_bufw_of_checks
  | otp => exact commitsOutput_of_cipher (exec_otp s) State.le_bufw_of_checks
  | cbcEnc => exact commitsOutput_of_cipher (exec_cbcEnc s) State.le_bufw_of_checks
  | cbcDec => exact commitsOutput_of_cipher (exec_cbcDec s) State.le_bufw_of_checks
  | move d => exact absurd rfl hi

/-- Everything a command other than MOVE can do: raise, or commit an output, write the flags and answer OKAY. -/
theorem exec_output_cases {i : Instr} {s t : State} (hi : i.unit ≠ .move) (h : exec i s = .next t) :
    (∃ f info, t = s.raise (encode i) f info) ∨
      ∃ u flags, OutputCommit s u ∧ t = (u.setFlags flags).answer (.writeDone .okay) := by
  obtain ⟨check, commit, flags, hexec, hcommit⟩ := commitsOutput i s hi
  rw [hexec] at h
  rcases State.command_cases s i commit flags h with ⟨v, -, rfl⟩ | ⟨hpass, rfl⟩
  · exact .inl ⟨v.fault, v.info, rfl⟩
  · exact .inr ⟨_, _, hcommit hpass, rfl⟩

/-- A command of U_MOVE is MOVE. -/
theorem eq_move_of_unit {i : Instr} (h : i.unit = .move) : ∃ d, i = .move d := by
  cases i with
  | move d => exact ⟨d, rfl⟩
  | _ => cases h

/-! ### What a command leaves alone (70_reset_and_hazards.md R297) -/

/-- The registers of a result: `RES` and the output descriptors (10_state.md R23, R26). -/
def outputRegs : List Reg := [.res, .orows, .ocols, .olen]

section
variable {s t : State}

theorem OutputCommit.readReg (h : OutputCommit s t) {r : Reg} (hr : r ∉ outputRegs) : t.readReg r = s.readReg r := by
  cases h with
  | scalar v =>
    cases r with
    | res => simp [outputRegs] at hr
    | _ => rfl
  | sequence f hn | image f hn =>
    cases r with
    | orows | ocols | olen => simp [outputRegs] at hr
    | _ => rfl

theorem OutputCommit.sameWords (h : OutputCommit s t) {b : Buffer} (hb : b ≠ .obuf) : SameWords b s t := by
  intro k
  cases h with
  | scalar v => rw [State.setRes_word]
  | sequence f hn => rw [State.outSequence_word, if_neg fun hk => hb hk.1]
  | image f hn => rw [State.outImage_word, if_neg fun hk => hb hk.1]

theorem OutputCommit.sameHost (h : OutputCommit s t) : SameHost s t := by cases h <;> exact ⟨rfl, rfl, rfl⟩

end

/-- The descriptors of the three input buffers (10_state.md R25). -/
def inputDescriptors : List Reg := [.crows, .ccols, .prows, .pcols, .plen, .klen]

theorem destDescriptor_subset (d : Dest) : destDescriptor d ⊆ inputDescriptors := by cases d <;> decide

/-- The registers a command other than MOVE may write: the result, STATUS and the fault record. -/
def resultRegs : List Reg := [.status, .errcode, .errcmd, .errinfo, .res, .orows, .ocols, .olen]

/-- A command other than MOVE keeps everything but its result, STATUS and the fault record. -/
theorem exec_output_frame {i : Instr} {s t : State} (hi : i.unit ≠ .move) (h : exec i s = .next t) :
    SameHost s t ∧ SameRegsBut resultRegs s t ∧ ∀ b, b ≠ .obuf → SameWords b s t := by
  rcases exec_output_cases hi h with ⟨f, info, rfl⟩ | ⟨u, flags, hu, rfl⟩
  · have hfault := State.raise_recorded s (encode i) f info
    exact ⟨hfault.sameHost, fun r hr => hfault.regs r fun hmem => hr (List.mem_append_left outputRegs hmem),
      fun b _ => hfault.words b⟩
  · refine ⟨⟨hu.sameHost.cfg, hu.sameHost.resets, hu.sameHost.host⟩, fun r hr => ?_, fun b hb k => ?_⟩
    · have hstatus : r ≠ .status := by
        rintro rfl
        exact hr (by decide)
      rw [State.answer_readReg, State.setFlags_readReg _ _ _ hstatus,
        hu.readReg fun hmem => hr (List.mem_append_right [.status, .errcode, .errcmd, .errinfo] hmem)]
    · rw [State.answer_word, State.setFlags_word, hu.sameWords hb]

/-! ### The invariant (10_state.md R31) -/

theorem Fault.code_bounds (f : Fault) : 1 ≤ f.code.toNat ∧ f.code.toNat ≤ 13 := by cases f <;> decide

/-- Only an address inside a window names a buffer word, so its index is below the depth. -/
theorem lt_of_locate_word {bufw : Nat} {addr : Word} {b : Buffer} {i : Nat}
    (h : locate bufw addr = some (.word b i)) : i < bufw := by
  rw [locate] at h
  split at h
  · cases h
  · obtain ⟨b', -, hb'⟩ := List.exists_of_findSome?_eq_some h
    obtain ⟨hwindow, htarget⟩ := Option.ite_none_right_eq_some.1 hb'
    cases htarget
    omega

theorem State.resetWith_inv {cfg : Config} (hv : cfg.Valid) (resets : Nat) (host : List Txn) :
    (State.resetWith cfg resets host).Inv where
  config := hv
  olenFits := Nat.zero_le _
  olenShape := .inl rfl
  noFault := fun _ => ⟨rfl, rfl, rfl⟩
  faultCode := fun h => by simp at h
  reserved := (by decide : (0 : Word).extractLsb' 3 29 = 0)
  canonical := State.resetWith_wf cfg resets host

namespace State.Inv

section
variable {s t : State}

theorem taken (h : s.Inv) (rest : List Txn) : (s.taken rest).Inv :=
  ⟨h.config, h.olenFits, h.olenShape, h.noFault, h.faultCode, h.reserved, h.canonical⟩

theorem answer (h : s.Inv) (r : Reply) : (s.answer r).Inv :=
  ⟨h.config, h.olenFits, h.olenShape, h.noFault, h.faultCode, h.reserved, h.canonical⟩

/-- A recorded fault has the code of some fault (60_exceptions.md R260). -/
theorem raise (h : s.Inv) (w : Word) (f : Fault) (info : Word) : (s.raise w f info).Inv where
  config := h.config
  olenFits := h.olenFits
  olenShape := h.olenShape
  noFault := fun herr => by simp [(State.raise_recorded s w f info).err] at herr
  faultCode := fun _ => by
    rw [State.raise_errcode, toNat_byteWord]
    exact f.code_bounds
  reserved := (State.setErr_reserved s true).trans h.reserved
  canonical := h.canonical

theorem clrErr (h : s.Inv) : s.clrErr.Inv where
  config := h.config
  olenFits := h.olenFits
  olenShape := h.olenShape
  noFault := fun _ => ⟨rfl, rfl, rfl⟩
  faultCode := fun herr => by simp at herr
  reserved := (State.clrErr_reserved s).trans h.reserved
  canonical := h.canonical

theorem setFlags (h : s.Inv) (f : FlagValues) : (s.setFlags f).Inv where
  config := h.config
  olenFits := h.olenFits
  olenShape := h.olenShape
  noFault := fun herr => h.noFault ((State.setFlags_err s f).symm.trans herr)
  faultCode := fun herr => h.faultCode ((State.setFlags_err s f).symm.trans herr)
  reserved := (State.setFlags_reserved s f).trans h.reserved
  canonical := h.canonical

theorem writeReg (h : s.Inv) (v : Word) (r : Reg) : (s.writeReg v r).Inv := by
  cases r <;> exact ⟨h.config, h.olenFits, h.olenShape, h.noFault, h.faultCode, h.reserved, h.canonical⟩

theorem setWord (h : s.Inv) (b : Buffer) {i : Nat} (v : Word) (hi : i < s.cfg.bufw) : (s.setWord b i v).Inv := by
  have hcanonical := State.setWord_wf h.canonical b v hi
  cases b <;> exact ⟨h.config, h.olenFits, h.olenShape, h.noFault, h.faultCode, h.reserved, hcanonical⟩

theorem writeBuffer (h : s.Inv) (b : Buffer) {i : Nat} (v : Word) (hi : i < s.cfg.bufw) :
    (s.writeBuffer b i v).Inv := by
  cases b with
  | obuf => exact h
  | cbuf | pbuf | kbuf => exact h.setWord _ v hi

theorem fill (h : s.Inv) (b : Buffer) {n : Nat} (f : Nat → Word) (hn : n ≤ s.cfg.bufw) : (s.fill b n f).Inv := by
  have hcanonical := State.fill_wf h.canonical b f hn
  cases b <;> exact ⟨h.config, h.olenFits, h.olenShape, h.noFault, h.faultCode, h.reserved, hcanonical⟩

/-- MOVE fills an input buffer with the output, which fits by the invariant. -/
theorem moveTo (h : s.Inv) (d : Dest) : (s.moveTo d).Inv := by
  have hfill := h.fill (destBuffer d) (s.word .obuf) h.olenFits
  cases d <;> exact ⟨hfill.config, hfill.olenFits, hfill.olenShape, hfill.noFault, hfill.faultCode, hfill.reserved,
    hfill.canonical⟩

/-- A result that fits has a length the register holds exactly, and a sequence has the empty shape. -/
theorem outputCommit (h : s.Inv) (hc : OutputCommit s t) : t.Inv := by
  cases hc with
  | scalar v => exact ⟨h.config, h.olenFits, h.olenShape, h.noFault, h.faultCode, h.reserved, h.canonical⟩
  | @sequence n f hn =>
    have hfits : n ≤ s.cfg.bufw := hn.elim id fun h8 => h8.le.trans h.config.1
    have holen : (s.outSequence n f).olen.toNat = n := toNat_natWord_of_le (hfits.trans h.config.2)
    exact ⟨h.config, holen.trans_le hfits, .inr ⟨rfl, rfl⟩, h.noFault, h.faultCode, h.reserved,
      State.outSequence_wf h.canonical f hfits⟩
  | @image rows cols f hn =>
    have holen : (s.outImage rows cols f).olen.toNat = rows.toNat * cols.toNat :=
      toNat_natWord_of_le (hn.trans h.config.2)
    exact ⟨h.config, holen.trans_le hn, .inl holen, h.noFault, h.faultCode, h.reserved,
      State.outImage_wf h.canonical rows cols f hn⟩

theorem exec (h : s.Inv) {i : Instr} (hexec : Machine.exec i s = .next t) : t.Inv := by
  by_cases hi : i.unit = .move
  · obtain ⟨d, rfl⟩ := eq_move_of_unit hi
    rw [exec_move] at hexec
    cases hexec
    exact ((h.moveTo d).setFlags {}).answer _
  · rcases exec_output_cases hi hexec with ⟨f, info, rfl⟩ | ⟨u, flags, hu, rfl⟩
    · exact h.raise _ f info
    · exact ((h.outputCommit hu).setFlags flags).answer _

theorem writeCmd (h : s.Inv) {w : Word} (hw : s.writeCmd w = .next t) : t.Inv := by
  cases herr : s.err with
  | true =>
    rw [State.writeCmd_refused herr] at hw
    cases hw
    exact h.answer _
  | false =>
    cases hd : decode s.cfg.hasCipher w with
    | error e =>
      rw [State.writeCmd_illegal herr (hd ▸ rejects_error e)] at hw
      cases hw
      exact h.raise w .illegal 0
    | ok i =>
      rw [State.writeCmd_legal herr hd] at hw
      exact h.exec hw

theorem writeCtrl (h : s.Inv) (data : Word) : (s.writeCtrl data).Inv := by
  cases hdata : data.getLsbD 0 with
  | true =>
    rw [State.writeCtrl_clears hdata]
    exact h.clrErr
  | false =>
    rw [State.writeCtrl_keeps hdata]
    exact h

theorem readPort (h : s.Inv) (addr : Word) : (s.readPort addr).Inv := by
  rw [State.readPort]
  split <;> exact h.answer _

theorem writePort (h : s.Inv) {addr data : Word} (hw : s.writePort addr data = .next t) : t.Inv := by
  rw [State.writePort] at hw
  split at hw
  · -- an unmapped address
    cases hw
    exact h.answer _
  · -- `CMD`
    exact h.writeCmd hw
  · -- `CTRL`
    cases hw
    exact (h.writeCtrl data).answer _
  · -- any other register
    cases hw
    exact (h.writeReg data _).answer _
  · -- a buffer word
    next hloc =>
    cases hw
    exact (h.writeBuffer _ data (lt_of_locate_word hloc)).answer _

theorem step (h : s.Inv) (hstep : Machine.step s = .next t) : t.Inv := by
  cases hhost : s.host with
  | nil =>
    rw [Machine.step, hhost] at hstep
    cases hstep
    exact h
  | cons txn rest =>
    cases txn with
    | read addr =>
      rw [step_read hhost] at hstep
      cases hstep
      exact (h.taken rest).readPort addr
    | write addr data =>
      rw [step_write hhost] at hstep
      exact (h.taken rest).writePort hstep
    | reset =>
      rw [step_reset hhost] at hstep
      cases hstep
      exact State.resetWith_inv h.config _ rest

end

end State.Inv

/-! ### The obligations -/

/-- Settles O12: every update of the state keeps the invariant, and a step is a chain of them. -/
theorem stepKeepsTheInvariant : Obligations.StepKeepsTheInvariant := fun _ _ h hstep => h.step hstep

/-- Settles O11: the reset state of a valid instance has every register 0 and no buffer word written. -/
theorem resetSatisfiesTheInvariant : Obligations.ResetSatisfiesTheInvariant :=
  ⟨fun _ n host hv => State.resetWith_inv hv n host, State.resetWith_inv (by decide) 0 []⟩

/-- Settles O6: the write reaches `CMD`, and with `ERR` = 0 it runs what its word decodes to. -/
theorem stepRunsTheDecodedCommand : Obligations.StepRunsTheDecodedCommand := fun _ _ _ _ hs hhost hd =>
  (step_write_cmd hhost).trans (State.writeCmd_legal hs hd)

/-- Settles O10: every transaction answers a next state, and so does every command at its execution template. -/
theorem everyStepAnswersANextState : Obligations.EveryStepAnswersANextState := ⟨step_next, exec_next⟩

/-- Settles O13: MOVE by its own laws, every other command by what it commits. -/
theorem commandsKeepTheirInputs : Obligations.CommandsKeepTheirInputs := by
  intro i s t h
  by_cases hi : i.unit = .move
  · obtain ⟨d, rfl⟩ := eq_move_of_unit hi
    rw [exec_move] at h
    cases h
    have hreg (r : Reg) (hr : r ∉ .status :: inputDescriptors) : (s.moved d).readReg r = s.readReg r :=
      s.moved_regs d r fun hmem => hr (List.cons_subset_cons _ (destDescriptor_subset d) hmem)
    exact ⟨(s.moved_completed d).sameHost, hreg .a0 (by decide), hreg .a1 (by decide), hreg .a2 (by decide),
      hreg .a3 (by decide), fun hne => absurd rfl hne, fun _ => ⟨s.moved_sameWords d .obuf (by cases d <;> decide),
        hreg .orows (by decide), hreg .ocols (by decide), hreg .olen (by decide), hreg .res (by decide)⟩⟩
  · obtain ⟨hhost, hregs, hwords⟩ := exec_output_frame hi h
    exact ⟨hhost, hregs .a0 (by decide), hregs .a1 (by decide), hregs .a2 (by decide), hregs .a3 (by decide),
      fun _ => ⟨hregs, hwords .cbuf (by decide), hwords .pbuf (by decide), hwords .kbuf (by decide)⟩,
      fun hmove => absurd hmove hi⟩

end Sys2Proof.Machine

/-! PROOFS. The functions of 40_bitops.md R124, R125 and 41_textcodec.md R140, R141: a bit written and read back, a byte
and its eight bits, and the grouping of bits into bytes. -/

namespace Sys2Proof.Machine

/-! ### A bit sequence and its value (40_bitops.md R125) -/

/-- The bits of the value are the sequence read from its end: the first bit weighs most. -/
theorem testBit_bitsValue (s : List Bool) (k : Nat) : (bitsValue s).testBit k = s.reverse.getD k false := by
  induction s using List.reverseRecOn generalizing k with
  | nil => simp [bitsValue]
  | append_singleton s b ih =>
    rw [bitsValue_append_singleton, List.reverse_append, List.reverse_singleton, List.singleton_append]
    cases k with
    | zero => cases b <;> simp [Nat.testBit_zero, Nat.add_mod]
    | succ k =>
      have hhalf : (2 * bitsValue s + b.toNat) / 2 = bitsValue s := by
        have := b.toNat_lt
        omega
      rw [Nat.testBit_succ, hhalf, ih, List.getD_cons_succ]

/-- The byte of eight bits has element `i` of them at its bit `7 - i`. -/
theorem byteToBits_ofNat_bitsValue {s : List Bool} (h : s.length = 8) :
    byteToBits (BitVec.ofNat 8 (bitsValue s)) = s := by
  refine List.ext_getElem (by rw [length_byteToBits, h]) fun i hi hi' => ?_
  have hbit : 7 - i < 8 := by omega
  have hrev : s.length - 1 - (7 - i) = i := by omega
  rw [getElem_byteToBits, BitVec.getLsbD_ofNat, testBit_bitsValue,
    List.getD_eq_getElem _ _ (by rw [List.length_reverse, h]; exact hbit), List.getElem_reverse]
  simp only [hbit, hrev, decide_true, Bool.true_and]

theorem byteToBits_injective : Function.Injective byteToBits := by
  intro b b' h
  refine BitVec.eq_of_getLsbD_eq fun i hi => ?_
  have hget := congrArg (fun l => l.getD (7 - i) false) h
  have hback : 7 - (7 - i) = i := by omega
  simpa only [getD_byteToBits _ (show 7 - i < 8 by omega), hback] using hget

/-- The byte of a byte's own bits is that byte. -/
theorem ofNat_bitsValue_byteToBits (b : Byte) : BitVec.ofNat 8 (bitsValue (byteToBits b)) = b :=
  byteToBits_injective (byteToBits_ofNat_bitsValue (length_byteToBits b))

theorem bitsToByte_of_length {s : List Bool} (h : s.length = 8) :
    bitsToByte s = some (BitVec.ofNat 8 (bitsValue s)) := if_pos h

/-- The value of eight bits is their sum by weights. -/
theorem toNat_ofNat_bitsValue {s : List Bool} (h : s.length = 8) :
    (BitVec.ofNat 8 (bitsValue s)).toNat = bitSum fun i => (s.getD i false).toNat := by
  have hlist : s = (List.range 8).map fun i => s.getD i false :=
    List.ext_getElem (by simp [h]) fun i hi _ => by simp [hi]
  have hlt : bitsValue s < 2 ^ 8 := h ▸ bitsValue_lt s
  rw [BitVec.toNat_ofNat, Nat.mod_eq_of_lt hlt]
  conv_lhs => rw [hlist]
  exact bitsValue_map_range _ 8

/-! ### Groups of eight bits (41_textcodec.md R140) -/

theorem bytesToBits_cons (b : Byte) (bs : List Byte) : bytesToBits (b :: bs) = byteToBits b ++ bytesToBits bs := by
  rw [bytesToBits, List.flatMap_cons, bytesToBits]

/-- The first eight bits make the first byte. -/
theorem bitsToBytes_append {s : List Bool} (h : s.length = 8) (rest : List Bool) :
    bitsToBytes (s ++ rest) = BitVec.ofNat 8 (bitsValue s) :: bitsToBytes rest := by
  have hgroups : (s ++ rest).length / 8 = rest.length / 8 + 1 := by
    rw [List.length_append, h]
    omega
  have hdrop (j : Nat) : (s ++ rest).drop (8 * (j + 1)) = rest.drop (8 * j) := by
    rw [List.drop_append, List.drop_of_length_le (by omega), List.nil_append, h, show 8 * (j + 1) - 8 = 8 * j by omega]
  have hfirst : ((s ++ rest).drop (8 * 0)).take 8 = s := by
    rw [Nat.mul_zero, List.drop_zero, ← h, List.take_left]
  rw [bitsToBytes, hgroups, List.range_succ_eq_map, List.map_cons, List.map_map, hfirst, bitsToBytes]
  refine congrArg _ (List.map_congr_left fun j _ => ?_)
  rw [Function.comp_apply, hdrop]

theorem bitsToBytes_bytesToBits (bs : List Byte) : bitsToBytes (bytesToBits bs) = bs := by
  induction bs with
  | nil => rfl
  | cons b bs ih =>
    rw [bytesToBits_cons, bitsToBytes_append (length_byteToBits b), ofNat_bitsValue_byteToBits, ih]

/-- Induction on the number of whole groups. -/
theorem bytesToBits_bitsToBytes {n : Nat} {s : List Bool} (h : s.length = 8 * n) :
    bytesToBits (bitsToBytes s) = s := by
  induction n generalizing s with
  | zero =>
    obtain rfl : s = [] := List.length_eq_zero_iff.1 h
    rfl
  | succ n ih =>
    have hfirst : (s.take 8).length = 8 := by
      rw [List.length_take]
      omega
    have hrest : (s.drop 8).length = 8 * n := by
      rw [List.length_drop]
      omega
    rw [← List.take_append_drop 8 s, bitsToBytes_append hfirst, bytesToBits_cons, byteToBits_ofNat_bitsValue hfirst,
      ih hrest]

/-! ### The obligations -/

/-- Settles O20: all four laws say what a bit of the written word is. -/
theorem setBitAndGetBitLaws : Obligations.SetBitAndGetBitLaws := by
  intro v b p q hp hq
  refine ⟨?_, fun hne => ?_, setBit_getLsbD_self v hp, BitVec.eq_of_getLsbD_eq fun i _ => ?_⟩
  · rw [getBit, getLsbD_setBit _ _ _ _ hp, if_pos rfl]
  · rw [getBit, getLsbD_setBit _ _ _ _ hp, if_neg hne, getBit]
  · simp only [getLsbD_setBit _ _ _ _ hp]
    split <;> rfl

/-- Settles O21: the bits of a byte determine it, and eight bits are those of the byte they make. -/
theorem byteToBitsIsInvertedByBitsToByte : Obligations.ByteToBitsIsInvertedByBitsToByte := by
  refine ⟨fun b => ⟨length_byteToBits b, fun i hi => ?_⟩, fun s h => if_neg h, fun s h => ?_, fun b => ?_⟩
  · rw [List.getElem?_eq_getElem (by rwa [length_byteToBits]), getElem_byteToBits]
  · exact ⟨_, bitsToByte_of_length h, toNat_ofNat_bitsValue h, byteToBits_ofNat_bitsValue h⟩
  · rw [bitsToByte_of_length (length_byteToBits b), ofNat_bitsValue_byteToBits]

/-- Settles O22: group by group, by the inverse functions on one byte. -/
theorem bytesAndBitsRoundTrip : Obligations.BytesAndBitsRoundTrip :=
  ⟨bitsToBytes_bytesToBits, fun s h => bytesToBits_bitsToBytes (n := s.length / 8) (by omega)⟩

end Sys2Proof.Machine

/-! PROOFS. Well-formed byte sequences (41_textcodec.md R145, R146): a row is known by its first byte, so the scan takes
each subsequence of a well-formed beginning in one way, and it stops where no row matches. -/

namespace Sys2Proof.Machine

/-! ### The rows of the table (41_textcodec.md R145) -/

theorem matchesRow_append {row : List (Nat × Nat)} {c : List Byte} (rest : List Byte)
    (h : matchesRow row c = true) : matchesRow row (c ++ rest) = true := by
  induction row generalizing c with
  | nil => rfl
  | cons r row ih =>
    cases c with
    | nil => cases h
    | cons b c =>
      simp only [matchesRow, Bool.and_eq_true, List.cons_append] at h ⊢
      exact ⟨h.1, ih h.2⟩

/-- A row is matched by the bytes at its own length. -/
theorem matchesRow_take {row : List (Nat × Nat)} {bs : List Byte} (h : matchesRow row bs = true) :
    (bs.take row.length).length = row.length ∧ matchesRow row (bs.take row.length) = true := by
  induction row generalizing bs with
  | nil => exact ⟨rfl, rfl⟩
  | cons r row ih =>
    cases bs with
    | nil => cases h
    | cons b bs =>
      simp only [matchesRow, Bool.and_eq_true, List.length_cons, List.take_succ_cons] at h ⊢
      exact ⟨congrArg (· + 1) (ih h.2).1, h.1, (ih h.2).2⟩

/-- The statement's table is the model's: a subsequence matches a row of its own length. -/
theorem matchesUtf8Row_iff {c : List Byte} :
    MatchesUtf8Row c ↔ ∃ row ∈ utf8Rows, row.length = c.length ∧ matchesRow row c = true := by
  match c with
  | [] => simp [MatchesUtf8Row, utf8Rows]
  | [a] => simp [MatchesUtf8Row, utf8Rows, matchesRow]
  | [a, b] => simp [MatchesUtf8Row, utf8Rows, matchesRow]
  | [a, b, c] =>
    simp [MatchesUtf8Row, utf8Rows, matchesRow]
    omega
  | [a, b, c, d] =>
    simp [MatchesUtf8Row, utf8Rows, matchesRow]
    omega
  | _ :: _ :: _ :: _ :: _ :: _ => simp [MatchesUtf8Row, utf8Rows]

/-- The ranges of the first byte of two rows do not overlap. -/
theorem utf8Rows_apart : ∀ row ∈ utf8Rows, ∀ row' ∈ utf8Rows, row ≠ row' →
    (row.headD (0, 0)).2 < (row'.headD (0, 0)).1 ∨ (row'.headD (0, 0)).2 < (row.headD (0, 0)).1 := by decide

theorem headD_of_matchesRow {row : List (Nat × Nat)} {b : Byte} {bs : List Byte} (hrow : row ∈ utf8Rows)
    (h : matchesRow row (b :: bs) = true) : (row.headD (0, 0)).1 ≤ b.toNat ∧ b.toNat ≤ (row.headD (0, 0)).2 := by
  cases row with
  | nil => exact absurd hrow (by decide)
  | cons r row =>
    simp only [matchesRow, Bool.and_eq_true, decide_eq_true_eq] at h
    exact h.1

theorem ne_nil_of_matchesRow {row : List (Nat × Nat)} {bs : List Byte} (hrow : row ∈ utf8Rows)
    (h : matchesRow row bs = true) : bs ≠ [] := by
  rintro rfl
  cases row with
  | nil => exact absurd hrow (by decide)
  | cons r row => cases h

/-- No byte sequence begins with two rows. -/
theorem utf8Rows_unique {row row' : List (Nat × Nat)} {bs : List Byte} (hrow : row ∈ utf8Rows)
    (hrow' : row' ∈ utf8Rows) (h : matchesRow row bs = true) (h' : matchesRow row' bs = true) : row = row' := by
  by_contra hne
  obtain ⟨b, bs, rfl⟩ := List.exists_cons_of_ne_nil (ne_nil_of_matchesRow hrow h)
  have hb := headD_of_matchesRow hrow h
  have hb' := headD_of_matchesRow hrow' h'
  have hapart := utf8Rows_apart row hrow row' hrow' hne
  omega

/-! ### One subsequence of the scan (41_textcodec.md R146) -/

theorem mem_of_find?_matchesRow {row : List (Nat × Nat)} {bs : List Byte}
    (h : (utf8Rows.find? fun row => matchesRow row bs) = some row) : row ∈ utf8Rows ∧ matchesRow row bs = true :=
  ⟨List.mem_of_find?_eq_some h, List.find?_some (p := fun row => matchesRow row bs) h⟩

theorem rowLength_append {c : List Byte} (h : MatchesUtf8Row c) (rest : List Byte) :
    rowLength (c ++ rest) = some c.length := by
  obtain ⟨row, hrow, hlen, hmatch⟩ := matchesUtf8Row_iff.1 h
  have happend := matchesRow_append rest hmatch
  have hfound : (utf8Rows.find? fun row => matchesRow row (c ++ rest)).isSome = true :=
    List.find?_isSome.2 ⟨row, hrow, happend⟩
  obtain ⟨row', hfind⟩ := Option.isSome_iff_exists.1 hfound
  obtain ⟨hrow', hmatch'⟩ := mem_of_find?_matchesRow hfind
  obtain rfl : row' = row := utf8Rows_unique hrow' hrow hmatch' happend
  rw [rowLength, hfind, Option.map_some, hlen]

theorem rowLength_eq_some {bs : List Byte} {n : Nat} (h : rowLength bs = some n) : MatchesUtf8Row (bs.take n) := by
  obtain ⟨row, hfind, rfl⟩ := Option.map_eq_some_iff.1 h
  obtain ⟨hrow, hbegins⟩ := mem_of_find?_matchesRow hfind
  obtain ⟨hlen, hmatch⟩ := matchesRow_take hbegins
  exact matchesUtf8Row_iff.2 ⟨row, hrow, hlen.symm, hmatch⟩

theorem rowLength_eq_none_iff {bs : List Byte} : rowLength bs = none ↔ ∀ n, ¬MatchesUtf8Row (bs.take n) := by
  refine ⟨fun h n hn => ?_, fun h => ?_⟩
  · have hsome := rowLength_append hn (bs.drop n)
    rw [List.take_append_drop, h] at hsome
    cases hsome
  · cases hlen : rowLength bs with
    | none => rfl
    | some n => exact absurd (rowLength_eq_some hlen) (h n)

theorem length_pos_of_matchesUtf8Row {c : List Byte} (h : MatchesUtf8Row c) : 0 < c.length := by
  cases c with
  | nil => exact h.elim
  | cons b c => simp

/-- Bytes of a row already matched are passed over. -/
theorem firstBadFrom_skip (c rest : List Byte) (i : Nat) :
    firstBadFrom c.length i (c ++ rest) = firstBadFrom 0 (i + c.length) rest := by
  induction c generalizing i with
  | nil => rfl
  | cons b c ih =>
    rw [List.length_cons, List.cons_append, firstBadFrom, ih, Nat.add_assoc, Nat.add_comm 1]

theorem firstBadFrom_row {c : List Byte} (h : MatchesUtf8Row c) (rest : List Byte) (i : Nat) :
    firstBadFrom 0 i (c ++ rest) = firstBadFrom 0 (i + c.length) rest := by
  have hlen := rowLength_append h rest
  cases c with
  | nil => exact h.elim
  | cons b c =>
    rw [List.cons_append] at hlen ⊢
    rw [firstBadFrom, hlen]
    dsimp only
    rw [List.length_cons, Nat.add_sub_cancel, firstBadFrom_skip, Nat.add_assoc, Nat.add_comm 1]

theorem firstBadFrom_stuck {rest : List Byte} (hne : rest ≠ []) (h : rowLength rest = none) (i : Nat) :
    firstBadFrom 0 i rest = some i := by
  obtain ⟨b, bs, rfl⟩ := List.exists_cons_of_ne_nil hne
  rw [firstBadFrom, h]

/-! ### The scan of a whole sequence -/

theorem firstBadFrom_chunks {chunks : List (List Byte)} (h : ∀ c ∈ chunks, MatchesUtf8Row c) (rest : List Byte)
    (i : Nat) : firstBadFrom 0 i (chunks.flatten ++ rest) = firstBadFrom 0 (i + chunks.flatten.length) rest := by
  induction chunks generalizing i with
  | nil => rfl
  | cons c chunks ih =>
    obtain ⟨hc, hchunks⟩ := List.forall_mem_cons.1 h
    rw [List.flatten_cons, List.append_assoc, firstBadFrom_row hc, ih hchunks, List.length_append, Nat.add_assoc]

/-- Every sequence is a concatenation of matching subsequences and a rest that is empty or begins with no row. -/
theorem exists_chunks (bs : List Byte) : ∃ (chunks : List (List Byte)) (rest : List Byte),
    (∀ c ∈ chunks, MatchesUtf8Row c) ∧ bs = chunks.flatten ++ rest ∧ (rest ≠ [] → rowLength rest = none) := by
  induction hn : bs.length using Nat.strong_induction_on generalizing bs with
  | _ n ih =>
    subst hn
    cases hlen : rowLength bs with
    | none => exact ⟨[], bs, nofun, rfl, fun _ => hlen⟩
    | some k =>
      have hc := rowLength_eq_some hlen
      have hshorter : (bs.drop k).length < bs.length := by
        have hpos := length_pos_of_matchesUtf8Row hc
        rw [List.length_take] at hpos
        rw [List.length_drop]
        omega
      obtain ⟨chunks, rest, hchunks, heq, hrest⟩ := ih _ hshorter _ rfl
      refine ⟨bs.take k :: chunks, rest, List.forall_mem_cons.2 ⟨hc, hchunks⟩, ?_, hrest⟩
      rw [List.flatten_cons, List.append_assoc, ← heq, List.take_append_drop]

theorem wellformed_iff (bs : List Byte) :
    wellformed bs = true ↔ ∃ chunks : List (List Byte), (∀ c ∈ chunks, MatchesUtf8Row c) ∧ bs = chunks.flatten := by
  rw [wellformed, Option.isNone_iff_eq_none]
  show firstBadFrom 0 0 bs = none ↔ _
  refine ⟨fun h => ?_, ?_⟩
  · obtain ⟨chunks, rest, hchunks, rfl, hrest⟩ := exists_chunks bs
    rw [firstBadFrom_chunks hchunks] at h
    have hnil : rest = [] := by
      by_contra hne
      rw [firstBadFrom_stuck hne (hrest hne)] at h
      cases h
    exact ⟨chunks, hchunks, by rw [hnil, List.append_nil]⟩
  · rintro ⟨chunks, hchunks, rfl⟩
    rw [← List.append_nil chunks.flatten, firstBadFrom_chunks hchunks, firstBadFrom]

theorem firstBad_eq_some_iff (bs : List Byte) (k : Nat) :
    TextEncoding.firstBad .utf8 bs = some k ↔
      ∃ (chunks : List (List Byte)) (rest : List Byte), (∀ c ∈ chunks, MatchesUtf8Row c) ∧
        bs = chunks.flatten ++ rest ∧ chunks.flatten.length = k ∧ rest ≠ [] ∧ ∀ n, ¬MatchesUtf8Row (rest.take n) := by
  rw [TextEncoding.firstBad]
  refine ⟨fun h => ?_, ?_⟩
  · obtain ⟨chunks, rest, hchunks, rfl, hrest⟩ := exists_chunks bs
    rw [firstBadFrom_chunks hchunks, Nat.zero_add] at h
    have hne : rest ≠ [] := by
      rintro rfl
      rw [firstBadFrom] at h
      cases h
    rw [firstBadFrom_stuck hne (hrest hne)] at h
    exact ⟨chunks, rest, hchunks, rfl, Option.some.inj h, hne, rowLength_eq_none_iff.1 (hrest hne)⟩
  · rintro ⟨chunks, rest, hchunks, rfl, hlen, hne, hstuck⟩
    rw [firstBadFrom_chunks hchunks, firstBadFrom_stuck hne (rowLength_eq_none_iff.2 hstuck), Nat.zero_add, hlen]

/-! ### The obligation -/

/-- Settles O24: the scan passes over matching subsequences and reports the index where it is stuck. -/
theorem firstBadFindsTheFirstIllFormedSubsequence : Obligations.FirstBadFindsTheFirstIllFormedSubsequence :=
  ⟨wellformed_iff, firstBad_eq_some_iff⟩

end Sys2Proof.Machine

/-! PROOFS. The four commands whose statements follow those of their units: BIN2IMG (42_imageops.md R173), EMBED_GRAY
(43_steganography.md R198), VIG_DEC and CBC_ENC (44_cipher.md R225, R228). -/

namespace Sys2Proof.Machine

/-! ### BIN2IMG (42_imageops.md R169) -/

/-- A legal Boolean word becomes white or opaque black. -/
theorem binaryPixel_getLsb {w : Word} (h : w.toNat ≤ 1) :
    binaryPixel (getLsb w) = if w = 1#32 then 0xFFFFFFFF#32 else 0xFF000000#32 := by
  rw [← bitWord_getLsb_of_le_one h]
  cases getLsb w <;> decide

/-! ### EMBED_GRAY (43_steganography.md R198) -/

section
variable {s : State}

theorem State.payloadCells_empty (h : s.pn = 0) : s.payloadRows * s.payloadCols = 0 := by
  rw [State.payloadRows_empty h, Nat.zero_mul]

theorem State.payloadCells_nonempty (h : s.pn ≠ 0) : s.payloadRows * s.payloadCols = s.pn := by
  rw [State.payloadRows_nonempty h, State.payloadCols_nonempty h, State.pn]

/-- A payload with cells that fits its cover leaves the element check. -/
theorem State.checkGray_elements (hcap : s.cap ≤ s.cfg.bufw) (hne : s.pn ≠ 0) (hrows : s.prows.toNat ≤ s.crows.toNat)
    (hcols : s.pcols.toNat ≤ s.ccols.toNat) :
    (s.checkSize s.cap <|> s.checkSize s.pn <|> s.checkDim s.payloadRows s.payloadCols
      <|> s.checkElements .grey .pbuf (s.payloadRows * s.payloadCols)) = s.checkElements .grey .pbuf s.pn := by
  have hdim : s.checkDim s.payloadRows s.payloadCols = none :=
    (State.checkDim_payload_nonempty hne).trans (State.checkDim_pass hrows hcols)
  rw [State.checkSizes_pass hcap ((State.pn_le_cap hrows hcols).trans hcap), check_pass hdim,
    State.payloadCells_nonempty hne]

/-- An empty payload has no element to check. -/
theorem State.checkGray_empty (hcap : s.cap ≤ s.cfg.bufw) (hpn : s.pn = 0) :
    (s.checkSize s.cap <|> s.checkSize s.pn <|> s.checkDim s.payloadRows s.payloadCols
      <|> s.checkElements .grey .pbuf (s.payloadRows * s.payloadCols)) = none := by
  rw [State.checkSizes_pass hcap (by omega), check_pass (State.checkDim_payload_empty hpn),
    State.payloadCells_empty hpn, State.checkElements_eq_none]
  exact fun _ hk => absurd hk (Nat.not_lt_zero _)

end

/-! ### Ciphers with a keyword or a vector (44_cipher.md R221, R224, R228) -/

/-- The faults of a command whose own check is that of an empty key buffer. -/
theorem keyed_fault_clauses {s : State} {i : Instr} {g : State → Nat → Byte}
    (hexec : exec i s = s.cipher i (s.checkKeyed s.checkKeyNonempty) g) :
    (s.cfg.hasCipher = true → s.cfg.bufw < s.plen.toNat → Raises i s .size 0#32) ∧
    (s.cfg.hasCipher = true → s.plen.toNat ≤ s.cfg.bufw → s.cfg.bufw < s.klen.toNat → Raises i s .size 0#32) ∧
    (s.cfg.hasCipher = true → s.plen.toNat ≤ s.cfg.bufw → s.klen.toNat = 0 → Raises i s .keyEmpty 0#32) ∧
    (s.cfg.hasCipher = true → s.plen.toNat ≤ s.cfg.bufw → s.klen.toNat ≤ s.cfg.bufw → s.klen.toNat ≠ 0 →
      ∀ j, FirstAbove s .pbuf s.plen.toNat 255 j → Raises i s .elem (BitVec.ofNat 32 j)) ∧
    (LegalData s → s.klen.toNat ≤ s.cfg.bufw → ∀ j, FirstAbove s .kbuf s.klen.toNat 255 j →
      Raises i s .elem (0x80000000#32 ||| BitVec.ofNat 32 j)) := by
  refine ⟨fun unit => (raises_size_of_checkKeyed hexec unit).1, fun unit => (raises_size_of_checkKeyed hexec unit).2,
    fun unit hfits hempty => ?_, fun unit hfits hkfits hne j hfirst => ?_, fun hdata hkfits j hfirst => ?_⟩
  · exact raises_own_of_checkKeyed hexec unit hfits (by omega) (require_neg _ _ (not_not.2 hempty))
  · exact raises_data_of_checkKeyed hexec unit hfits hkfits (require_pos _ _ hne) hfirst
  · have hne : s.klen.toNat ≠ 0 := Nat.ne_zero_of_lt hfirst.1
    exact raises_key_of_checkKeyed hexec hdata hkfits (require_pos _ _ hne) hfirst

/-- Each ciphertext byte is the data byte masked by the vector in the first block, and by the ciphertext byte one block
before elsewhere. -/
theorem getD_chainEncrypt {b n k : Nat} (plain iv : Nat → Byte) (hb : b ≠ 0) (hk : k < n) :
    (chainEncrypt b plain iv n).getD k 0 =
      plain k ^^^ (if k < b then iv k else (chainEncrypt b plain iv n).getD (k - b) 0) := by
  have hlast : (chainEncrypt b plain iv (k + 1)).getD k 0 =
      plain k ^^^ (if k < b then iv k else (chainEncrypt b plain iv k).getD (k - b) 0) := by
    rw [chainEncrypt, List.getD_append_right _ _ _ _ (by rw [length_chainEncrypt]), length_chainEncrypt, Nat.sub_self,
      List.getD_cons_zero]
  rw [getD_chainEncrypt_of_le plain iv hk (Nat.lt_succ_self k), hlast]
  split
  · rfl
  · next hblock => rw [getD_chainEncrypt_of_le plain iv hk.le (show k - b < k by omega)]

/-! ### The obligations -/

/-- Settles O38: a conversion of Boolean words to white and opaque black pixels. -/
theorem bin2imgMakesWhiteAndBlackPixels : Obligations.Bin2imgMakesWhiteAndBlackPixels :=
  fun s hv => ⟨hasEncoding_of_row (i := .bin2img) rfl (by decide),
    conversion_clauses (e := .boolean) (g := fun w => if w = 1#32 then 0xFFFFFFFF#32 else 0xFF000000#32) hv
      (exec_bin2img s) fun _ h => binaryPixel_getLsb h⟩

/-- Settles O43: the checks of EMBED_COLOR and then that of the grey words, and an empty payload passes them all. -/
theorem embedGrayWritesTheBoxByThreshold : Obligations.EmbedGrayWritesTheBoxByThreshold := by
  intro s thr hv
  obtain ⟨hcover, hpayload⟩ := raises_size_of_checkSizes (exec_embedGray s thr)
  refine ⟨hasEncoding_of_row (i := .embedGray thr) rfl (by decide), hcover, hpayload, fun hcap hpn hne hdim => ?_,
    fun hcap hrows hcols k hfirst => ?_, fun hcap hpn => ?_, fun hcap hne hrows hcols hlegal => ?_⟩
  · exact raises_of_check (exec_embedGray s thr) ((State.checkSizes_pass hcap hpn).trans
      (check_fail ((State.checkDim_payload_nonempty hne).trans (State.checkDim_fail hdim))))
  · have hne : s.pn ≠ 0 := Nat.ne_zero_of_lt hfirst.1
    have helem : s.checkElements .grey .pbuf s.pn = some ⟨.range, natWord k⟩ := State.checkElements_eq_some hfirst
    exact raises_of_check (exec_embedGray s thr) ((State.checkGray_elements hcap hne hrows hcols).trans helem)
  · exact yieldsImage_of_embedBox_empty (exec_embedGray s thr) (State.checkGray_empty hcap hpn)
      (State.embedBox_payload_empty _ hpn) (hcap.trans hv.2)
  · have helem : s.checkElements .grey .pbuf s.pn = none := State.checkElements_eq_none.2 hlegal
    exact yieldsImage_of_embedBox (w := fun k => if thr.toNat ≤ (s.word .pbuf k).toNat then 1#32 else 0#32)
      (exec_embedGray s thr) ((State.checkGray_elements hcap hne hrows hcols).trans helem)
      (State.embedBox_payload_nonempty _ hne) (hcap.trans hv.2) fun k hk => bitWord_binarize (hlegal k hk) thr

/-- Settles O49: the checks of VIG_ENC, and the key byte is subtracted modulo 256. -/
theorem vigDecSubtractsTheCyclingKey : Obligations.VigDecSubtractsTheCyclingKey := by
  intro s hv
  obtain ⟨hsize, hksize, hempty, hbad, hkbad⟩ := keyed_fault_clauses (exec_vigDec s)
  refine ⟨hasEncoding_of_row (i := .vigDec) rfl (by decide), hsize, hksize, hempty, hbad, hkbad,
    fun hdata hkey hne => ?_⟩
  refine yieldsSequence_of_checkKeyed (exec_vigDec s) hv hdata hkey (require_pos _ _ hne) fun k hk => ?_
  have hcycle : k % s.klen.toNat < s.klen.toNat := Nat.mod_lt _ (Nat.pos_of_ne_zero hne)
  rw [byteWord_sub, hdata.toNat_dataByte hk, hkey.toNat_keyByte hcycle]

/-- Settles O52: the keyed checks, and the recurrence of the chaining read on the words it leaves in OBUF. -/
theorem cbcEncChainsEveryBlockWithTheOneBefore : Obligations.CbcEncChainsEveryBlockWithTheOneBefore := by
  intro s hv
  obtain ⟨hsize, hksize, hempty, hbad, hkbad⟩ := keyed_fault_clauses (exec_cbcEnc s)
  refine ⟨hasEncoding_of_row (i := .cbcEnc) rfl (by decide), hsize, hksize, hempty, hbad, hkbad,
    fun hdata hkey hne => ?_⟩
  obtain ⟨t, ht, hframe, hwords⟩ :=
    yieldsSequence_of_checkKeyed (exec_cbcEnc s) hv hdata hkey (require_pos _ _ hne) fun _ _ => rfl
  refine ⟨t, ht, hframe, fun k hk => ?_⟩
  rw [hwords k hk]
  dsimp only
  rw [getD_chainEncrypt _ _ hne hk, byteWord_xor, hdata.byteWord_dataByte hk]
  split
  · next hfirst => rw [hkey.byteWord_keyByte hfirst]
  · rw [hwords _ ((Nat.sub_le _ _).trans_lt hk)]

end Sys2Proof.Machine

/-! PROOFS. What an embedding leaves of the cover (43_steganography.md R203): every cell it writes is the cover's cell
with some lowest bit, and from that one fact follow the channels and the grey value. -/

namespace Sys2Proof.Machine

/-! ### Pixels that agree but for the lowest bit -/

theorem toNat_setLsb_div_two (v : Word) (b : Bool) : (setLsb v b).toNat / 2 = v.toNat / 2 := by
  refine Nat.eq_of_testBit_eq fun i => ?_
  rw [← Nat.testBit_succ, ← Nat.testBit_succ]
  exact (getLsbD_setLsb v b (i + 1)).trans (if_neg (Nat.succ_ne_zero i))

theorem setLsb_getLsb (v : Word) : setLsb v (getLsb v) = v := setBit_getLsbD_self v (by omega)

section
variable {p q : Word}

/-- Only blue has the lowest bit of the pixel (20_memory.md R65). -/
theorem extractChannel_congr_of_half (h : p.toNat / 2 = q.toNat / 2) {ch : Channel} (hch : ch ≠ .blue) :
    extractChannel p ch = extractChannel q ch := by
  refine BitVec.eq_of_toNat_eq ?_
  rw [toNat_extractChannel, toNat_extractChannel]
  cases ch with
  | blue => exact absurd rfl hch
  | alpha | red | green => dsimp only [Channel.lowBit]; omega

theorem extractChannel_blue_le_of_half (h : p.toNat / 2 = q.toNat / 2) :
    (extractChannel p .blue).toNat ≤ (extractChannel q .blue).toNat + 1 := by
  rw [toNat_extractChannel_blue, toNat_extractChannel_blue]
  omega

theorem grayscale_le_of_half (h : p.toNat / 2 = q.toNat / 2) :
    (grayscale p).toNat ≤ (grayscale q).toNat + 1 := by
  have hred : p.toNat / 2 ^ 16 % 256 = q.toNat / 2 ^ 16 % 256 := by omega
  have hgreen : p.toNat / 2 ^ 8 % 256 = q.toNat / 2 ^ 8 % 256 := by omega
  have hblue : p.toNat % 256 ≤ q.toNat % 256 + 1 := by omega
  rw [toNat_grayscale, toNat_grayscale, greyOf, greyOf, hred, hgreen]
  generalize q.toNat / 2 ^ 16 % 256 = red, q.toNat / 2 ^ 8 % 256 = green
  omega

end

/-! ### What an embed command commits (43_steganography.md R193) -/

/-- The five embed commands. -/
def IsEmbedCommand (i : Instr) : Prop :=
  i = .embedBits ∨ i = .embedBin ∨ i = .embedText ∨ (∃ thr, i = .embedGray thr) ∨ ∃ thr, i = .embedColor thr

/-- The image has the cover's shape, and each cell is the cover's with some lowest bit. -/
def IsStego (s t : State) : Prop :=
  ∃ f, t = s.outImage s.crows s.ccols f ∧ ∀ k, ∃ b, f k = setLsb (s.word .cbuf k) b

section
variable (s : State)

theorem State.embedFlat_isStego (n : Nat) (bit : Nat → Bool) : IsStego s (s.embedFlat n bit) := by
  refine ⟨_, rfl, fun k => ?_⟩
  split
  · exact ⟨_, rfl⟩
  · exact ⟨_, (setLsb_getLsb _).symm⟩

theorem State.embedBox_isStego (pr pc : Nat) (bit : Nat → Bool) : IsStego s (s.embedBox pr pc bit) := by
  refine ⟨_, rfl, fun k => ?_⟩
  rw [rowMajor, Nat.div_add_mod']
  dsimp only
  split
  · exact ⟨_, rfl⟩
  · exact ⟨_, (setLsb_getLsb _).symm⟩

/-- Every embed command runs the execution template with one of the two geometries. -/
theorem exec_embed {i : Instr} (hi : IsEmbedCommand i) :
    ∃ check commit flags, exec i s = s.command i check commit flags ∧ IsStego s (commit s) := by
  rcases hi with rfl | rfl | rfl | ⟨thr, rfl⟩ | ⟨thr, rfl⟩
  · exact ⟨_, _, _, exec_embedBits s, s.embedFlat_isStego ..⟩
  · exact ⟨_, _, _, exec_embedBin s, s.embedBox_isStego ..⟩
  · exact ⟨_, _, _, exec_embedText s, s.embedFlat_isStego ..⟩
  · exact ⟨_, _, _, exec_embedGray s thr, s.embedBox_isStego ..⟩
  · exact ⟨_, _, _, exec_embedColor s thr, s.embedBox_isStego ..⟩

/-- An image result writes the output descriptors alone. -/
theorem State.outImage_readReg (rows cols : Word) (f : Nat → Word) {r : Reg} (hr : r ∉ [Reg.orows, .ocols, .olen]) :
    (s.outImage rows cols f).readReg r = s.readReg r := by
  cases r with
  | orows | ocols | olen => simp at hr
  | _ => rfl

end

/-- What an embed command that completes leaves of the state and of the cover's cells. -/
theorem exec_embed_frame {i : Instr} {s t : State} (hi : IsEmbedCommand i) (h : exec i s = .next t)
    (hr : t.reply = some (.writeDone .okay)) :
    (∀ b, b ≠ .obuf → SameWords b s t) ∧ SameRegsBut [.status, .orows, .ocols, .olen] s t ∧
      ∀ k < s.cap, ∃ b, t.word .obuf k = setLsb (s.word .cbuf k) b := by
  obtain ⟨check, commit, flags, hexec, f, hf, hcell⟩ := exec_embed s hi
  rw [hexec] at h
  rcases State.command_cases s i commit flags h with ⟨v, -, rfl⟩ | ⟨-, rfl⟩
  · simp at hr
  · rw [hf]
    refine ⟨fun b hb k => ?_, fun r hr => ?_, fun k hk => ?_⟩
    · rw [State.answer_word, State.setFlags_word, State.outImage_word, if_neg fun hk => hb hk.1]
    · obtain ⟨hstatus, hshape⟩ := not_or.1 (mt List.mem_cons.2 hr)
      rw [State.answer_readReg, State.setFlags_readReg _ _ _ hstatus, State.outImage_readReg _ _ _ _ hshape]
    · rw [State.answer_word, State.setFlags_word, State.outImage_word, if_pos ⟨rfl, hk⟩]
      exact hcell k

/-! ### The obligation -/

/-- Settles O58: each cell is the cover's with some lowest bit, so the two agree in half their value. -/
theorem embeddingKeepsAllButTheLowBit : Obligations.EmbeddingKeepsAllButTheLowBit := by
  intro i s t hi h hr
  obtain ⟨hwords, hregs, hcells⟩ := exec_embed_frame hi h hr
  refine ⟨hwords, hregs, fun k hk => ?_⟩
  obtain ⟨b, hb⟩ := hcells k hk
  have hhalf : (t.word .obuf k).toNat / 2 = (s.word .cbuf k).toNat / 2 := by rw [hb, toNat_setLsb_div_two]
  refine ⟨fun j hj => ?_, hhalf, fun ch hch => extractChannel_congr_of_half hhalf hch,
    extractChannel_blue_le_of_half hhalf, extractChannel_blue_le_of_half hhalf.symm, grayscale_le_of_half hhalf,
    grayscale_le_of_half hhalf.symm⟩
  rw [hb, getLsbD_setLsb, if_neg (by omega)]

end Sys2Proof.Machine

/-! PROOFS. Sequences of steganography commands (43_steganography.md R198, R202): what MOVE hands from the output of one
command to the inputs of the next, and the words that an embedding and a revealing leave in turn. -/

namespace Sys2Proof.Machine

/-! ### What MOVE hands on (45_move_control.md R250) -/

section
variable {s t : State} {rows cols : Word} {n : Nat} {f : FlagValues}

/-- After MOVE C the carrier is the output just written, and the parameters are as before. -/
structure CarrierReplaced (s t u : State) (rows cols : Word) (n : Nat) : Prop where
  cfg : u.cfg = s.cfg
  crows : u.crows = rows
  ccols : u.ccols = cols
  carrier : ∀ k < n, u.word .cbuf k = t.word .obuf k

theorem OutputFrame.moved_carrier (h : OutputFrame s t rows cols n f) :
    CarrierReplaced s t (t.moved .c) rows cols n where
  cfg := (t.moved_completed .c).sameHost.cfg.trans h.completed.sameHost.cfg
  crows := h.orows
  ccols := h.ocols
  carrier := fun k hk => (t.moved_word_destBuffer .c k).trans (if_pos (h.olen.symm ▸ hk))

theorem CarrierReplaced.cap {u : State} (h : CarrierReplaced s t u rows cols n) :
    u.cap = rows.toNat * cols.toNat := by rw [State.cap, h.crows, h.ccols]

/-- After MOVE P the payload is the output just written; the other inputs and the parameters are as before. -/
structure PayloadReplaced (s t u : State) (rows cols : Word) (n : Nat) : Prop where
  cfg : u.cfg = s.cfg
  prows : u.prows = rows
  pcols : u.pcols = cols
  plen : u.plen.toNat = n
  payload : ∀ k < n, u.word .pbuf k = t.word .obuf k
  regs : ∀ r ∈ [Reg.crows, .ccols, .klen], u.readReg r = s.readReg r
  words : ∀ b ∈ [Buffer.cbuf, .kbuf], SameWords b s u

theorem OutputFrame.moved_payload (h : OutputFrame s t rows cols n f) :
    PayloadReplaced s t (t.moved .p) rows cols n where
  cfg := (t.moved_completed .p).sameHost.cfg.trans h.completed.sameHost.cfg
  prows := h.orows
  pcols := h.ocols
  plen := h.olen
  payload := fun k hk => (t.moved_word_destBuffer .p k).trans (if_pos (h.olen.symm ▸ hk))
  regs := fun r hr => by
    rw [t.moved_regs .p r (by fin_cases hr <;> decide), h.regs r (by fin_cases hr <;> decide)]
  words := fun b hb k => by
    rw [t.moved_sameWords .p b (by fin_cases hb <;> decide), h.words b (by fin_cases hb <;> decide)]

variable {u : State}

theorem PayloadReplaced.crows (h : PayloadReplaced s t u rows cols n) : u.crows = s.crows := h.regs .crows (by decide)

theorem PayloadReplaced.ccols (h : PayloadReplaced s t u rows cols n) : u.ccols = s.ccols := h.regs .ccols (by decide)

theorem PayloadReplaced.klen (h : PayloadReplaced s t u rows cols n) : u.klen = s.klen := h.regs .klen (by decide)

theorem PayloadReplaced.cap (h : PayloadReplaced s t u rows cols n) : u.cap = s.cap := by
  rw [State.cap, h.crows, h.ccols, State.cap]

theorem PayloadReplaced.pn (h : PayloadReplaced s t u rows cols n) : u.pn = rows.toNat * cols.toNat := by
  rw [State.pn, h.prows, h.pcols]

theorem PayloadReplaced.cbuf (h : PayloadReplaced s t u rows cols n) (k : Nat) : u.word .cbuf k = s.word .cbuf k :=
  h.words .cbuf (by decide) k

theorem PayloadReplaced.kbuf (h : PayloadReplaced s t u rows cols n) (k : Nat) : u.word .kbuf k = s.word .kbuf k :=
  h.words .kbuf (by decide) k

end

/-! ### The low bit of an embedded cell -/

/-- The lowest bit of an embedded cell is the payload's. -/
theorem getLsbD_zero_embedded (c p : Word) : ((c &&& 0xFFFFFFFE#32) ||| p).getLsbD 0 = p.getLsbD 0 := by
  simp

/-- A legal bit word, revealed. -/
theorem ite_getLsbD_zero_of_le_one {w : Word} (h : w.toNat ≤ 1) : (if w.getLsbD 0 then 1#32 else 0#32) = w :=
  bitWord_getLsb_of_le_one h

theorem bitSum_congr {f g : Nat → Nat} (h : ∀ i < 8, f i = g i) : bitSum f = bitSum g :=
  Finset.sum_congr rfl fun i hi => congrArg (· * 2 ^ (7 - i)) (h i (Finset.mem_range.1 hi))

/-- The bits of a byte word, first the most significant, weigh its value. -/
theorem bitSum_getLsbD {w : Word} (h : w.toNat ≤ 255) :
    (bitSum fun i => if w.getLsbD (7 - i) then 1 else 0) = w.toNat := by
  have hbits := toNat_ofNat_bitsValue (length_byteToBits (wordByte w))
  rw [ofNat_bitsValue_byteToBits, toNat_wordByte, Nat.mod_eq_of_lt (by omega)] at hbits
  rw [hbits]
  refine bitSum_congr fun i hi => ?_
  rw [getD_byteToBits _ hi, getLsbD_wordByte _ (by omega), Bool.toNat, Bool.cond_eq_ite]

/-! ### The image in OBUF -/

/-- OBUF and its descriptors hold an image with these cells. -/
structure HoldsImage (t : State) (rows cols : Word) (cell : Nat → Nat → Word) : Prop where
  orows : t.orows = rows
  ocols : t.ocols = cols
  olen : t.olen.toNat = rows.toNat * cols.toNat
  cells : ∀ r < rows.toNat, ∀ c < cols.toNat, t.word .obuf (r * cols.toNat + c) = cell r c

theorem OutputFrame.holdsImage {s t : State} {rows cols : Word} {f : FlagValues} {cell : Nat → Nat → Word}
    (h : OutputFrame s t rows cols (rows.toNat * cols.toNat) f)
    (hcells : ∀ r < rows.toNat, ∀ c < cols.toNat, t.word .obuf (r * cols.toNat + c) = cell r c) :
    HoldsImage t rows cols cell := ⟨h.orows, h.ocols, h.olen, hcells⟩

/-- Two states that hold the same image agree in the output descriptors and in every word of the output. -/
theorem HoldsImage.agree {t t' : State} {rows cols : Word} {cell : Nat → Nat → Word}
    (h : HoldsImage t rows cols cell) (h' : HoldsImage t' rows cols cell) :
    t'.orows = t.orows ∧ t'.ocols = t.ocols ∧ t'.olen = t.olen ∧
      ∀ k < t.olen.toNat, t'.word .obuf k = t.word .obuf k := by
  refine ⟨h'.orows.trans h.orows.symm, h'.ocols.trans h.ocols.symm,
    BitVec.eq_of_toNat_eq (h'.olen.trans h.olen.symm), fun k hk => ?_⟩
  rw [h.olen] at hk
  have hcols : 0 < cols.toNat := Nat.pos_of_ne_zero fun h0 => by simp [h0] at hk
  have hrow : k / cols.toNat < rows.toNat := (Nat.div_lt_iff_lt_mul hcols).2 hk
  have hcol : k % cols.toNat < cols.toNat := Nat.mod_lt _ hcols
  rw [← Nat.div_add_mod' k cols.toNat, h'.cells _ hrow _ hcol, h.cells _ hrow _ hcol]

/-! ### EMBED_GRAY as a sequence of commands (43_steganography.md R198) -/

/-- The cell EMBED_BIN writes where the payload is `rows` by `cols` with cells `g`. -/
def boxCell (s : State) (rows cols : Word) (g : Nat → Nat → Word) (r c : Nat) : Word :=
  if r < rows.toNat ∧ c < cols.toNat then (s.word .cbuf (r * s.ccols.toNat + c) &&& 0xFFFFFFFE#32) ||| g r c
  else s.word .cbuf (r * s.ccols.toNat + c)

/-- A command that leaves a Boolean image no larger than the cover, MOVE P, EMBED_BIN embed that image. -/
theorem embedBin_of_moved {i : Instr} {s : State} {rows cols : Word} {g : Nat → Nat → Word} (hv : s.cfg.Valid)
    (hcap : s.cap ≤ s.cfg.bufw) (hrows : rows.toNat ≤ s.crows.toNat) (hcols : cols.toNat ≤ s.ccols.toNat)
    (hi : YieldsImage i s rows cols g) (hg : ∀ r < rows.toNat, ∀ c < cols.toNat, (g r c).toNat ≤ 1) :
    ∃ t₁ t₂ t₃, exec i s = .next t₁ ∧ exec (.move .p) t₁ = .next t₂ ∧ exec .embedBin t₂ = .next t₃ ∧
      t₃.reply = some (.writeDone .okay) ∧ HoldsImage t₃ s.crows s.ccols (boxCell s rows cols g) := by
  obtain ⟨t₁, ht₁, hframe, hcells⟩ := hi
  have hmoved := hframe.moved_payload
  have hpayload (r : Nat) (hr : r < rows.toNat) (c : Nat) (hc : c < cols.toNat) :
      (t₁.moved .p).word .pbuf (r * cols.toNat + c) = g r c :=
    (hmoved.payload _ (cell_lt hr hc)).trans (hcells r hr c hc)
  have hlegal : AllAtMost (t₁.moved .p) .pbuf (t₁.moved .p).pn 1 := by
    intro k hk
    rw [hmoved.pn] at hk
    have hpos : 0 < cols.toNat := Nat.pos_of_ne_zero fun h0 => by simp [h0] at hk
    have hrow : k / cols.toNat < rows.toNat := (Nat.div_lt_iff_lt_mul hpos).2 hk
    have hcol : k % cols.toNat < cols.toNat := Nat.mod_lt _ hpos
    rw [← Nat.div_add_mod' k cols.toNat, hpayload _ hrow _ hcol]
    exact hg _ hrow _ hcol
  obtain ⟨-, -, -, -, -, hembed⟩ := embedBinWritesTheBoxOfTheCover (t₁.moved .p) (hmoved.cfg ▸ hv)
  obtain ⟨t₃, ht₃, hframe₃, hcells₃⟩ := hembed (by rwa [hmoved.cap, hmoved.cfg])
    (by rwa [hmoved.prows, hmoved.crows]) (by rwa [hmoved.pcols, hmoved.ccols]) hlegal
  rw [hmoved.crows, hmoved.ccols] at hframe₃ hcells₃
  dsimp only at hcells₃
  refine ⟨t₁, _, t₃, ht₁, exec_move t₁ .p, ht₃, hframe₃.completed.reply, hframe₃.holdsImage fun r hr c hc => ?_⟩
  rw [hcells₃ r hr c hc, hmoved.prows, hmoved.pcols, hmoved.cbuf, boxCell]
  split
  · next hbox => rw [hpayload r hbox.1 c hbox.2]
  · rfl

/-- What EMBED_GRAY has checked where it completes. -/
theorem embedGray_checked {s t : State} {thr : BitVec 16} (h : exec (.embedGray thr) s = .next t)
    (hr : t.reply = some (.writeDone .okay)) :
    s.cap ≤ s.cfg.bufw ∧ s.pn ≤ s.cfg.bufw ∧
      (s.pn ≠ 0 → s.prows.toNat ≤ s.crows.toNat ∧ s.pcols.toNat ≤ s.ccols.toNat ∧ AllAtMost s .pbuf s.pn 255) := by
  rw [exec_embedGray] at h
  rcases State.command_cases s _ _ _ h with ⟨v, -, rfl⟩ | ⟨hcheck, -⟩
  · simp at hr
  · obtain ⟨hcap, hcheck⟩ := check_orElse_eq_none.1 hcheck
    obtain ⟨hpn, hcheck⟩ := check_orElse_eq_none.1 hcheck
    obtain ⟨hdim, helem⟩ := check_orElse_eq_none.1 hcheck
    refine ⟨State.checkSize_eq_none.1 hcap, State.checkSize_eq_none.1 hpn, fun hne => ?_⟩
    rw [State.checkDim_payload_nonempty hne] at hdim
    rw [State.payloadCells_nonempty hne] at helem
    obtain ⟨hrows, hcols⟩ := require_eq_none.1 hdim
    exact ⟨hrows, hcols, State.checkElements_eq_none.1 helem⟩

/-! ### The obligations -/

/-- Settles O55: MOVE C makes the embedded cells the carrier, whose low bits are the payload and then the cover's
own. -/
theorem embeddedBitsAreRevealed : Obligations.EmbeddedBitsAreRevealed := by
  intro s hv hcap hne hlen hlegal
  obtain ⟨-, -, -, -, -, hembed⟩ := embedBitsSetsTheLowBitsOfTheCover s hv
  obtain ⟨t₁, ht₁, hframe₁, hcells₁⟩ := hembed hcap (hlen.trans hcap) hne hlegal
  have hmoved := hframe₁.moved_carrier
  have hcap₂ : (t₁.moved .c).cap = s.cap := hmoved.cap
  obtain ⟨-, -, hreveal⟩ := revealBitsReadsTheLowBitOfEveryCell (t₁.moved .c) (hmoved.cfg ▸ hv)
  obtain ⟨t₃, ht₃, hframe₃, hwords₃⟩ := hreveal (by rwa [hcap₂, hmoved.cfg])
  rw [hcap₂] at hframe₃ hwords₃
  dsimp only at hwords₃
  refine ⟨t₁, _, t₃, ht₁, exec_move t₁ .c, ht₃, hframe₁.completed.reply, (t₁.moved_completed .c).reply,
    hframe₃.completed.reply, hframe₃.olen, fun k hk => ?_, fun k hk hk' => ?_⟩
  · have hkcap := hk.trans_le hlen
    rw [hwords₃ k hkcap, hmoved.carrier k hkcap, hcells₁ k hkcap, if_pos hk, getLsbD_zero_embedded,
      ite_getLsbD_zero_of_le_one (hlegal k hk)]
  · have hcell : (t₁.moved .c).word .cbuf k = s.word .cbuf k := by
      rw [hmoved.carrier k hk', hcells₁ k hk', if_neg (by omega)]
    rw [hwords₃ k hk', hcell]

/-- Settles O56: the embedded image is a square carrier, whose low bits in the box are the payload. -/
theorem embeddedBinaryImageIsRevealed : Obligations.EmbeddedBinaryImageIsRevealed := by
  intro s hv hcap hsquare hrows hcols hlegal
  obtain ⟨-, -, -, -, -, hembed⟩ := embedBinWritesTheBoxOfTheCover s hv
  obtain ⟨t₁, ht₁, hframe₁, hcells₁⟩ := hembed hcap hrows hcols hlegal
  have hmoved := hframe₁.moved_carrier
  have hcap₂ : (t₁.moved .c).cap = s.cap := hmoved.cap
  obtain ⟨-, -, -, hreveal⟩ := revealBinReadsTheLowBitPlaneOfASquare (t₁.moved .c) (hmoved.cfg ▸ hv)
  obtain ⟨t₃, ht₃, hframe₃, hcells₃⟩ :=
    hreveal (by rwa [hcap₂, hmoved.cfg]) (by rw [hmoved.crows, hmoved.ccols, hsquare])
  rw [hmoved.crows, hmoved.ccols] at hcells₃
  dsimp only at hcells₁ hcells₃
  refine ⟨t₁, _, t₃, ht₁, exec_move t₁ .c, ht₃, hframe₁.completed.reply, (t₁.moved_completed .c).reply,
    hframe₃.completed.reply, fun r hr c hc => ?_⟩
  have hr' := hr.trans_le hrows
  have hc' := hc.trans_le hcols
  have hbox : r < s.prows.toNat ∧ c < s.pcols.toNat := ⟨hr, hc⟩
  rw [hcells₃ r hr' c hc', hmoved.carrier _ (cell_lt hr' hc'), hcells₁ r hr' c hc', if_pos hbox,
    getLsbD_zero_embedded, ite_getLsbD_zero_of_le_one (hlegal _ (cell_lt hr hc))]

/-- Settles O57: the low bits of eight successive cells are those of one message byte, which they weigh to again. -/
theorem embeddedTextIsRevealed : Obligations.EmbeddedTextIsRevealed := by
  intro s hv hcap hne hlen hlegal hwf
  obtain ⟨-, -, -, -, -, -, hembed⟩ := embedTextEmbedsTheBitsOfAWellFormedMessage s hv
  obtain ⟨t₁, ht₁, hframe₁, hcells₁⟩ := hembed hcap (by omega) hne hlegal hwf
  have hmoved := hframe₁.moved_carrier
  have hcap₂ : (t₁.moved .c).cap = s.cap := hmoved.cap
  obtain ⟨-, -, hreveal⟩ := revealTextGroupsTheLowBitsIntoBytes (t₁.moved .c) (hmoved.cfg ▸ hv)
  obtain ⟨t₃, ht₃, hframe₃, hwords₃⟩ := hreveal (by rwa [hcap₂, hmoved.cfg])
  rw [hcap₂] at hframe₃ hwords₃
  have hbit (j : Nat) (hj : j < s.plen.toNat) (i : Nat) (hi : i < 8) :
      ((t₁.moved .c).word .cbuf (8 * j + i)).getLsbD 0 = (s.word .pbuf j).getLsbD (7 - i) := by
    have hk : 8 * j + i < s.cap := by omega
    rw [hmoved.carrier _ hk, hcells₁ _ hk, if_pos (by omega), getLsbD_zero_embedded,
      show (8 * j + i) / 8 = j by omega, show (8 * j + i) % 8 = i by omega]
    exact (getLsbD_bitWord _ 0).trans (Bool.and_true _)
  refine ⟨t₁, _, t₃, ht₁, exec_move t₁ .c, ht₃, hframe₁.completed.reply, (t₁.moved_completed .c).reply,
    hframe₃.completed.reply, hframe₃.olen, fun j hj => ?_⟩
  have hsum : (bitSum fun i => if ((t₁.moved .c).word .cbuf (8 * j + i)).getLsbD 0 then 1 else 0) =
      (s.word .pbuf j).toNat := by
    rw [← bitSum_getLsbD (hlegal j hj)]
    exact bitSum_congr fun i hi => by rw [hbit j hj i hi]
  rw [hwords₃ j (by omega), hsum, BitVec.ofNat_toNat, BitVec.setWidth_eq]

/-- Settles O60: both leave the cover with the compared grey words in the box, which is empty for an empty payload. -/
theorem embedGrayIsConvertMoveEmbed : Obligations.EmbedGrayIsConvertMoveEmbed := by
  intro s thr t hv h hr
  obtain ⟨hcap, hpn, hpayload⟩ := embedGray_checked h hr
  obtain ⟨-, -, -, -, -, hempty, hfull⟩ := embedGrayWritesTheBoxByThreshold s thr hv
  obtain ⟨-, -, hbinEmpty, -, hbinFull⟩ := img2binComparesEveryGreyWithTheThreshold s thr hv
  suffices hsame : ∃ rows cols g, rows.toNat ≤ s.crows.toNat ∧ cols.toNat ≤ s.ccols.toNat ∧
      YieldsImage (.img2bin thr) s rows cols g ∧ (∀ r < rows.toNat, ∀ c < cols.toNat, (g r c).toNat ≤ 1) ∧
      YieldsImage (.embedGray thr) s s.crows s.ccols (boxCell s rows cols g) by
    obtain ⟨rows, cols, g, hrows, hcols, hbin, hg, t', ht', hframe, hcells⟩ := hsame
    obtain rfl : t = t' := Host.Outcome.next.inj (h.symm.trans ht')
    obtain ⟨t₁, t₂, t₃, ht₁, ht₂, ht₃, hr₃, himage⟩ := embedBin_of_moved hv hcap hrows hcols hbin hg
    exact ⟨t₁, t₂, t₃, ht₁, ht₂, ht₃, hr₃, (hframe.holdsImage hcells).agree himage⟩
  by_cases hne : s.pn = 0
  · refine ⟨0, 0, fun _ _ => 0, Nat.zero_le _, Nat.zero_le _, hbinEmpty hne, by simp, ?_⟩
    have hcell : boxCell s 0 0 (fun _ _ => 0) = fun r c => s.word .cbuf (r * s.ccols.toNat + c) := by
      funext r c
      rw [boxCell, if_neg (by simp)]
    rw [hcell]
    exact hempty hcap hne
  · obtain ⟨hrows, hcols, hlegal⟩ := hpayload hne
    refine ⟨s.prows, s.pcols, _, hrows, hcols, hbinFull hpn hne hlegal, fun r _ c _ => ?_,
      hfull hcap hne hrows hcols hlegal⟩
    split <;> decide

end Sys2Proof.Machine

/-! PROOFS. Each cipher is undone (44_cipher.md R230): the inverse laws of the byte functions, and the state in which
the second command runs, whose data are the bytes the first one left. -/

namespace Sys2Proof.Machine

/-! ### XOR-chaining there and back (44_cipher.md R228, R229) -/

theorem xor_mask_twice (x m : Byte) : x ^^^ m ^^^ m = x := by
  rw [BitVec.xor_assoc, BitVec.xor_self, BitVec.xor_zero]

section
variable {b n : Nat} {plain cipher iv : Nat → Byte}

/-- Both directions mask a byte by the same ciphertext byte. -/
theorem chainDecrypt_of_chainEncrypt (hb : b ≠ 0)
    (h : ∀ k < n, cipher k = (chainEncrypt b plain iv n).getD k 0) {k : Nat} (hk : k < n) :
    chainDecrypt b cipher iv k = plain k := by
  rw [chainDecrypt, h k hk, getD_chainEncrypt plain iv hb hk, h (k - b) ((Nat.sub_le k b).trans_lt hk), xor_mask_twice]

/-- By induction on the index: the mask is a ciphertext byte already recovered. -/
theorem chainEncrypt_of_chainDecrypt (hb : b ≠ 0) (h : ∀ k < n, plain k = chainDecrypt b cipher iv k) {k : Nat}
    (hk : k < n) : (chainEncrypt b plain iv n).getD k 0 = cipher k := by
  induction k using Nat.strong_induction_on with
  | _ k ih =>
    rw [getD_chainEncrypt plain iv hb hk, h k hk, chainDecrypt]
    split
    · exact xor_mask_twice _ _
    · next hblock => rw [ih (k - b) (by omega) (by omega), xor_mask_twice]

end

/-! ### The state in which the second command runs -/

section
variable {s t u : State} {f : Nat → Byte}

/-- MOVE P has made the bytes `f` of a first cipher command the data; the key material is that of `s`. -/
structure CipherMoved (s u : State) (f : Nat → Byte) : Prop where
  cfg : u.cfg = s.cfg
  plen : u.plen = s.plen
  klen : u.klen = s.klen
  data : ∀ k < s.plen.toNat, u.word .pbuf k = byteWord (f k)
  key : ∀ k, u.word .kbuf k = s.word .kbuf k

theorem PayloadReplaced.cipherMoved (h : PayloadReplaced s t u 0 0 s.plen.toNat)
    (hf : ∀ k < s.plen.toNat, t.word .obuf k = byteWord (f k)) : CipherMoved s u f where
  cfg := h.cfg
  plen := BitVec.eq_of_toNat_eq h.plen
  klen := h.klen
  data := fun k hk => (h.payload k hk).trans (hf k hk)
  key := h.kbuf

theorem CipherMoved.legalData (h : CipherMoved s u f) (hdata : LegalData s) : LegalData u where
  unit := h.cfg ▸ hdata.unit
  fits := by
    rw [h.plen, h.cfg]
    exact hdata.fits
  legal := fun k hk => by
    rw [h.plen] at hk
    rw [h.data k hk, toNat_byteWord]
    exact Nat.le_of_lt_succ (f k).isLt

theorem CipherMoved.legalKey (h : CipherMoved s u f) (hkey : LegalKey s) : LegalKey u where
  fits := by
    rw [h.klen, h.cfg]
    exact hkey.fits
  legal := fun k hk => by
    rw [h.klen] at hk
    rw [h.key k]
    exact hkey.legal k hk

theorem CipherMoved.dataByte (h : CipherMoved s u f) {k : Nat} (hk : k < s.plen.toNat) : u.dataByte k = f k := by
  rw [State.dataByte, h.data k hk, wordByte_byteWord]

theorem CipherMoved.keyByte (h : CipherMoved s u f) : u.keyByte = s.keyByte := by
  funext k
  rw [State.keyByte, h.key k, State.keyByte]

end

/-- Two cipher commands whose checks pass undo each other where the second byte function recovers the data from the
bytes of the first. -/
theorem undoes_of_ciphers {i j : Instr} {s : State} {check : Option Violation} {check' : State → Option Violation}
    {f g : State → Nat → Byte} (hv : s.cfg.Valid) (hdata : LegalData s) (hi : exec i s = s.cipher i check f)
    (hcheck : check = none) (hj : ∀ u, exec j u = u.cipher j (check' u) g)
    (hcheck' : ∀ u, CipherMoved s u (f s) → check' u = none)
    (hback : ∀ u, CipherMoved s u (f s) → ∀ k < s.plen.toNat, g u k = s.dataByte k) : Undoes i j s := by
  obtain ⟨t₁, ht₁, hframe₁, hwords₁⟩ :=
    yieldsSequence_of_cipher hi hv hdata.unit hdata.fits hcheck fun _ _ => rfl
  have hmoved : CipherMoved s (t₁.moved .p) (f s) := hframe₁.moved_payload.cipherMoved hwords₁
  have hlegal := hmoved.legalData hdata
  obtain ⟨t₃, ht₃, hframe₃, hwords₃⟩ := yieldsSequence_of_cipher (elem := s.word .pbuf) (hj (t₁.moved .p))
    (hmoved.cfg ▸ hv) hlegal.unit hlegal.fits (hcheck' _ hmoved) fun k hk => by
      rw [hmoved.plen] at hk
      rw [hback _ hmoved k hk, hdata.byteWord_dataByte hk]
  rw [hmoved.plen] at hframe₃ hwords₃
  exact ⟨t₁, _, t₃, ht₁, exec_move t₁ .p, ht₃, BitVec.eq_of_toNat_eq hframe₃.olen, hframe₃.completed.reply, hwords₃⟩

/-! ### The checks pass for both commands -/

section
variable {s : State}

theorem checkKeyed_pass (hdata : LegalData s) (hkey : LegalKey s) {own : Option Violation} (hown : own = none) :
    s.checkKeyed own = none :=
  (State.checkKeyed_elements hdata.fits hkey.fits hown).trans ((check_pass hdata.checkBytes).trans hkey.checkBytes)

theorem checkPad_pass (hdata : LegalData s) (hkey : LegalKey s) (hlen : s.klen = s.plen) : s.checkPad = none := by
  by_cases hempty : s.plen.toNat = 0
  · exact State.checkPad_empty hempty
  · exact (State.checkPad_elements hdata.fits hempty (by rw [hlen])).trans
      ((check_pass hdata.checkBytes).trans hkey.checkBytes)

theorem checkBlocks_pass (hne : s.klen.toNat ≠ 0) (hblock : s.plen.toNat % s.klen.toNat = 0) :
    (s.checkKeyNonempty <|> require (s.plen.toNat % s.klen.toNat = 0) .block s.plen) = none :=
  (check_pass (require_pos _ _ hne)).trans (require_pos _ _ hblock)

end

/-! ### The pairs of 44_cipher.md R230 -/

section
variable {s : State}

theorem undoes_caesar (hv : s.cfg.Valid) (hdata : LegalData s) (key : BitVec 8) :
    Undoes (.caesarEnc key) (.caesarDec key) s :=
  undoes_of_ciphers hv hdata (exec_caesarEnc s key) hdata.checkData (fun u => exec_caesarDec u key)
    (fun _ hu => (hu.legalData hdata).checkData)
    fun u hu k hk => by rw [hu.dataByte hk, BitVec.add_sub_cancel]

theorem undoes_xork (hv : s.cfg.Valid) (hdata : LegalData s) (key : BitVec 8) : Undoes (.xork key) (.xork key) s :=
  undoes_of_ciphers hv hdata (exec_xork s key) hdata.checkData (fun u => exec_xork u key)
    (fun _ hu => (hu.legalData hdata).checkData)
    fun u hu k hk => by rw [hu.dataByte hk, xor_mask_twice]

theorem undoes_vigenere (hv : s.cfg.Valid) (hdata : LegalData s) (hkey : LegalKey s) (hne : s.klen.toNat ≠ 0) :
    Undoes .vigEnc .vigDec s :=
  undoes_of_ciphers hv hdata (exec_vigEnc s) (checkKeyed_pass hdata hkey (require_pos _ _ hne)) exec_vigDec
    (fun _ hu => checkKeyed_pass (hu.legalData hdata) (hu.legalKey hkey) (require_pos _ _ (hu.klen ▸ hne)))
    fun u hu k hk => by rw [hu.dataByte hk, hu.keyByte, hu.klen, BitVec.add_sub_cancel]

theorem undoes_otp (hv : s.cfg.Valid) (hdata : LegalData s) (hkey : LegalKey s) (hlen : s.klen = s.plen) :
    Undoes .otp .otp s :=
  undoes_of_ciphers hv hdata (exec_otp s) (checkPad_pass hdata hkey hlen) exec_otp
    (fun _ hu => checkPad_pass (hu.legalData hdata) (hu.legalKey hkey) (by rw [hu.klen, hu.plen, hlen]))
    fun u hu k hk => by rw [hu.dataByte hk, hu.keyByte, xor_mask_twice]

theorem undoes_cbcEnc (hv : s.cfg.Valid) (hdata : LegalData s) (hkey : LegalKey s) (hne : s.klen.toNat ≠ 0)
    (hblock : s.plen.toNat % s.klen.toNat = 0) : Undoes .cbcEnc .cbcDec s :=
  undoes_of_ciphers hv hdata (exec_cbcEnc s) (checkKeyed_pass hdata hkey (require_pos _ _ hne)) exec_cbcDec
    (fun u hu => checkKeyed_pass (hu.legalData hdata) (hu.legalKey hkey)
      (checkBlocks_pass (hu.klen ▸ hne) (by rw [hu.plen, hu.klen, hblock])))
    fun u hu k hk => by
      rw [hu.klen, hu.keyByte]
      exact chainDecrypt_of_chainEncrypt hne (fun k hk => hu.dataByte hk) hk

theorem undoes_cbcDec (hv : s.cfg.Valid) (hdata : LegalData s) (hkey : LegalKey s) (hne : s.klen.toNat ≠ 0)
    (hblock : s.plen.toNat % s.klen.toNat = 0) : Undoes .cbcDec .cbcEnc s :=
  undoes_of_ciphers hv hdata (exec_cbcDec s) (checkKeyed_pass hdata hkey (checkBlocks_pass hne hblock)) exec_cbcEnc
    (fun u hu => checkKeyed_pass (hu.legalData hdata) (hu.legalKey hkey) (require_pos _ _ (hu.klen ▸ hne)))
    fun u hu k hk => by
      rw [hu.klen, hu.keyByte, hu.plen]
      exact chainEncrypt_of_chainDecrypt hne (fun k hk => hu.dataByte hk) hk

end

/-! ### The obligation -/

/-- Settles O59: `undoes_of_ciphers` for each pair, with the inverse law of its byte function. -/
theorem ciphersAreUndone : Obligations.CiphersAreUndone := fun _ hv hdata =>
  ⟨undoes_caesar hv hdata, undoes_xork hv hdata, undoes_vigenere hv hdata, undoes_otp hv hdata,
    fun hkey hne hblock => ⟨undoes_cbcEnc hv hdata hkey hne hblock, undoes_cbcDec hv hdata hkey hne hblock⟩⟩

end Sys2Proof.Machine
